-- ==== Sys2Proof/Word.lean ====
section
/-!
DEFINITION. The bit vectors of the engine, by the widths the spec gives them (00_scope R7, R9; 30_encoding R71, R77).
-/

namespace Sys2Proof

/-- A word: 32 bits, bit 31 most significant (R9). -/
abbrev Word := BitVec 32

/-- A byte of a block, a message or a digest (R9). -/
abbrev Byte := BitVec 8

/-- The 4-bit `IDX` field of a command, an unsigned register index (R72). -/
abbrev Idx := BitVec 4

/-- A command word `CW` (R71). -/
abbrev CmdWord := BitVec 40

/-- A response word `RW` (R77). -/
abbrev RspWord := BitVec 34

/-- Five words in the order `H[0]` to `H[4]`, that is A to E (R15, R21). -/
abbrev StateWords := Vector Word 5

/-- Sixteen words in the order `M[0]` to `M[15]` (R15, R24). -/
abbrev BlockWords := Vector Word 16

/-- A 64-byte block, byte 0 first (R52). -/
abbrev Block := Vector Byte 64

end Sys2Proof
end

