-- ==== Sys2Proof/Syntax.lean ====
section
/-!
DEFINITION. The five commands (30_encoding R74, opcode_table.json), one constructor per row. Reserved fields are no part of
the syntax: a word in which one is not zero is no command at all (R75).
-/

namespace Sys2Proof

/-- A command. `ldh` and `rdh` keep the whole 4-bit index; WellFormed says which of its values exist (R72). -/
inductive Instr where
  /-- INIT: set the state to the initial constants (R110). -/
  | init
  /-- LDH i, v: load state word `i` (R111). -/
  | ldh (i : Idx) (v : Word)
  /-- LDW j, v: load block word `j` (R112). -/
  | ldw (j : Idx) (v : Word)
  /-- COMPRESS: advance the state by the block (R120). -/
  | compress
  /-- RDH i: read state word `i` (R113). -/
  | rdh (i : Idx)
  deriving DecidableEq, Repr

end Sys2Proof
end

