-- ==== Sys2Proof/WellFormed.lean ====
section
/-!
DEFINITION. Which commands the encoding can express as legal words: the side conditions of 30_encoding R74.
-/

namespace Sys2Proof

/-- H-space has the indices 0 to 4 only (R50, R72): LDH and RDH are legal for those. Every LDW is legal. -/
def Instr.wellFormed : Instr → Bool
  | .init => true
  | .ldh i _ => decide (i.toNat ≤ 4)
  | .ldw _ _ => true
  | .compress => true
  | .rdh i => decide (i.toNat ≤ 4)

end Sys2Proof
end

