-- ==== Sys2Proof/Decode.lean ====
section
/-!
DEFINITION. The decoder of command words, total on all 40-bit values and rejecting by name (30_encoding R71 to R75, R81), the
encoder (R74, R83), and the host's reading of the opcode table.
-/

namespace Sys2Proof

/-- Why a word is illegal. The engine records none of this (60_exceptions R161, R164); the names are the decoder's only. -/
inductive IllegalReason where
  /-- `OP` is 0x0 or 0x6 to 0xF (R75 a). -/
  | unassignedOp
  /-- A reserved `IDX` or `DATA` field is not zero (R75 b, d). -/
  | reservedField
  /-- `IDX` names an H-space register 5 to 15, which does not exist (R75 c, d). -/
  | indexRange
  deriving DecidableEq, Repr

/-- `OP = CW[39:36]` (R71). -/
def opField (cw : CmdWord) : BitVec 4 := cw.extractLsb' 36 4

/-- `IDX = CW[35:32]` (R71, R72). -/
def idxField (cw : CmdWord) : Idx := cw.extractLsb' 32 4

/-- `DATA = CW[31:0]` (R71, R73). -/
def dataField (cw : CmdWord) : Word := cw.extractLsb' 0 32

/-- The decoding procedure (R81). -/
def decode (cw : CmdWord) : Except IllegalReason Instr :=
  if opField cw = 0x1 then
    if idxField cw = 0 ∧ dataField cw = 0 then .ok .init else .error .reservedField
  else if opField cw = 0x2 then
    if (idxField cw).toNat ≤ 4 then .ok (.ldh (idxField cw) (dataField cw)) else .error .indexRange
  else if opField cw = 0x3 then
    .ok (.ldw (idxField cw) (dataField cw))
  else if opField cw = 0x4 then
    if idxField cw = 0 ∧ dataField cw = 0 then .ok .compress else .error .reservedField
  else if opField cw = 0x5 then
    if (idxField cw).toNat ≤ 4 then
      if dataField cw = 0 then .ok (.rdh (idxField cw)) else .error .reservedField
    else .error .indexRange
  else .error .unassignedOp

/-- A word is legal when the decoder gives a command for it (R75, R81). -/
def legalWord (cw : CmdWord) : Bool :=
  match decode cw with
  | .ok _ => true
  | .error _ => false

/-- The operation codes (R74). -/
def opcodeOf : Instr → BitVec 4
  | .init => 0x1
  | .ldh _ _ => 0x2
  | .ldw _ _ => 0x3
  | .compress => 0x4
  | .rdh _ => 0x5

/-- The `IDX` field of a command, 0 where it is reserved (R72). -/
def idxOf : Instr → Idx
  | .init => 0
  | .ldh i _ => i
  | .ldw j _ => j
  | .compress => 0
  | .rdh i => i

/-- The `DATA` field of a command, 0 where it is reserved (R73). -/
def dataOf : Instr → Word
  | .init => 0
  | .ldh _ v => v
  | .ldw _ v => v
  | .compress => 0
  | .rdh _ => 0

/-- The command word `CW = {OP, IDX, DATA}` of a command (R71, R74, R83). -/
def encode (i : Instr) : CmdWord := opcodeOf i ++ idxOf i ++ dataOf i

/-- The command word whose lowest `nbits` bits are those of `w` and whose other bits are 0. -/
def tableCmdWord (nbits w : Nat) : CmdWord := BitVec.ofNat 40 (w % 2 ^ nbits)

/-- What the decoder reads from a row of spec/opcode_table.json. A command is one 40-bit word that no memory holds
(R64, R71), so the table's bit `n` is bit `n` of `CW`; more than 40 bits are no command (R82). -/
def decodeTableWord (nbits w : Nat) : Option Instr :=
  if nbits ≤ 40 then
    match decode (tableCmdWord nbits w) with
    | .ok i => some i
    | .error _ => none
  else none

end Sys2Proof
end

