-- ==== Sys2Proof/Machine/Datapath.lean ====
section
/-!
DEFINITION. The pure functions on words that the scheduler, the round and the mixer are built from (40_datapath R90 to R100)
and the constants of the hardware (10_state R22, 40_datapath R97).
-/

namespace Sys2Proof.Machine

/-- Addition modulo 2^32: the exact sum, narrowed to a word; the carry is recorded nowhere (R90). -/
def add32 (x y : Word) : Word := BitVec.ofNat 32 (x.toNat + y.toNat)

/-- The sum of five words modulo 2^32 (R94). -/
def add32x5 (p q r s u : Word) : Word :=
  BitVec.ofNat 32 (p.toNat + q.toNat + r.toNat + s.toNat + u.toNat)

/-- A way of building a sum from two-operand adders: a chain, a tree, in any order (R94). -/
inductive AddTree where
  | operand (x : Word)
  | adder (left right : AddTree)
  deriving DecidableEq, Repr

/-- The operands of a tree, from left to right. -/
def AddTree.operands : AddTree → List Word
  | .operand x => [x]
  | .adder l r => l.operands ++ r.operands

/-- What a tree of adders computes. -/
def AddTree.sum : AddTree → Word
  | .operand x => x
  | .adder l r => add32 l.sum r.sum

/-- Rotate-left by a constant amount. It has no meaning outside 0 < n < 32, which the argument `hn` rules out (R91, 93 U2). -/
def rotl (x : Word) (n : Nat) (_hn : 0 < n ∧ n < 32 := by decide) : Word := (x <<< n) ||| (x >>> (32 - n))

/-- Choose: `c` where `b` is 1, `d` where `b` is 0 (R95). -/
def fCh (b c d : Word) : Word := (b &&& c) ||| (~~~b &&& d)

/-- Parity (R96). -/
def fPar (b c d : Word) : Word := b ^^^ c ^^^ d

/-- Majority (R98). -/
def fMaj (b c d : Word) : Word := (b &&& c) ||| (b &&& d) ||| (c &&& d)

/-- The round function selected by the round number alone (R100). -/
def roundF (t : Fin 80) (b c d : Word) : Word :=
  if t.val ≤ 19 then fCh b c d
  else if t.val ≤ 39 then fPar b c d
  else if t.val ≤ 59 then fMaj b c d
  else fPar b c d

/-- The round constant (R97). -/
def roundK (t : Fin 80) : Word :=
  if t.val ≤ 19 then 0x5A827999
  else if t.val ≤ 39 then 0x6ED9EBA1
  else if t.val ≤ 59 then 0x8F1BBCDC
  else 0xCA62C1D6

/-- The initial state constants `IV[0..4]` (R22). -/
def initialState : StateWords := #v[0x67452301, 0xEFCDAB89, 0x98BADCFE, 0x10325476, 0xC3D2E1F0]

end Sys2Proof.Machine
end

