-- ==== Sys2Proof/Machine/Operands.lean ====
section
/-!
DEFINITION. The operand forms of a command: the `IDX` field as an index of the two register spaces (20_memory R50,
30_encoding R72). `DATA` is used as it stands (R73), so it has no form of its own.
-/

namespace Sys2Proof.Machine

/-- `IDX` as an H-space index: 0 to 4 name `H[IDX]`; 5 to 15 name nothing (R50, R72). -/
def hSpace (i : Idx) : Option (Fin 5) := if hi : i.toNat < 5 then some ⟨i.toNat, hi⟩ else none

/-- `IDX` as an M-space index: all of 0 to 15 name `M[IDX]` (R50, R72). -/
def mSpace (j : Idx) : Fin 16 := j.toFin

end Sys2Proof.Machine
end

