-- ==== Sys2Proof/Config.lean ====
section
/-!
DEFINITION. What the spec leaves unspecified: the free values. The open latencies (R8, R188) are not here, since no rule
depends on them and the model has no time (log 6).
-/

namespace Sys2Proof

/-- The free word for a register the spec calls unspecified: the value register slot `slot` takes at the run's
`draw`-th drawing of free values (after a reset R36, R180; after a mix step R127; after a COMPRESS on unwritten words R37).
It has no body, so nothing can be proved of any value of it. DESIGN CHOICE (log 1, log 2), safe. -/
opaque Config.freeWord (draw slot : Nat) : Word

end Sys2Proof
end

