-- ==== Sys2Proof/Machine/State.lean ====
section
/-!
DEFINITION. The state of one engine instance (10_state R20) with its input and output ports (30_encoding R78), the reasons a
step can stop, and the state after reset (10_state R36).
-/

namespace Sys2Proof.Machine

/-- The working registers `a`, `b`, `c`, `d`, `e` (R26). -/
structure Work where
  a : Word
  b : Word
  c : Word
  d : Word
  e : Word
  deriving DecidableEq, Repr

/-- The response codes: 2 and 3 are never produced, so they have no name (R77, R162; 93 S9). -/
inductive RspCode where
  /-- code 0: a legal command. -/
  | ok
  /-- code 1: IllegalCommand. -/
  | illegal
  deriving DecidableEq, Repr

/-- A response, `{CODE, RDATA}` (R77). -/
structure Response where
  code : RspCode
  rdata : Word
  deriving DecidableEq, Repr

/-- What the host drives on the input ports at one step (R78): reset, whether a command is presented, and its word. -/
structure Pins where
  rst : Bool
  cmdValid : Bool
  cmd : CmdWord
  deriving DecidableEq, Repr

/-- The complete state of one engine (R20), its ports, and the model's own counter of free-value drawings. -/
structure State where
  /-- `H[0..4]`, the chaining state (R21). -/
  h : StateWords
  /-- `M[0..15]`, the block buffer (R24). -/
  m : BlockWords
  /-- `a` to `e`, the working registers (R26). -/
  work : Work
  /-- `WS[0..15]`, the schedule window (R27). -/
  ws : BlockWords
  /-- `T`, the round counter (R28). -/
  t : BitVec 7
  /-- `BUSY` (R29). -/
  busy : Bool
  /-- One "written since reset" bit per word of `H` (R37). -/
  hWritten : Vector Bool 5
  /-- One "written since reset" bit per word of `M` (R37). -/
  mWritten : Vector Bool 16
  /-- What the host drives from this step on, oldest first; nothing once the list ends (R78 to R80, log 7). -/
  port : List Pins
  /-- The response presented by the last step, if any: `rsp_valid` and `rsp` (R77, R78). -/
  rsp : Option Response
  /-- The MODEL's own: how often this run has drawn free values (log 2). -/
  draws : Nat
  deriving DecidableEq, Repr

/-- Why the machine stops. -/
inductive Fault where
  /-- Raised by the sequencer when `BUSY = 1` and `T` is 81 to 127: R28 calls these values unreachable and no rule gives a
  step from them. Safe: no run from reset or from any state with `T` at most 80 meets it (log 4). -/
  | roundCounterRange
  deriving DecidableEq, Repr

/-- Why an instruction has no meaning. -/
inductive Refusal where
  /-- Raised by `exec` for an instruction that is not modelled; no instruction is. Safe. -/
  | notModelled (mnemonic : String)
  deriving DecidableEq, Repr

/-- Free words for `H`, from slot `base` of a drawing. -/
def freeStateWords (draw base : Nat) : StateWords := Vector.ofFn fun i => Config.freeWord draw (base + i.val)

/-- Free words for `M` or `WS`, from slot `base` of a drawing. -/
def freeBlockWords (draw base : Nat) : BlockWords := Vector.ofFn fun j => Config.freeWord draw (base + j.val)

/-- Free words for `a` to `e`, from slot `base` of a drawing. -/
def freeWork (draw base : Nat) : Work where
  a := Config.freeWord draw base
  b := Config.freeWord draw (base + 1)
  c := Config.freeWord draw (base + 2)
  d := Config.freeWord draw (base + 3)
  e := Config.freeWord draw (base + 4)

/-- The state a reset leaves (R36, R180): `BUSY = 0`, `T = 0`, no response, every data register unspecified and unwritten.
`draw` numbers the drawing of free values, `rest` is what the host drives afterwards. -/
def State.afterReset (draw : Nat) (rest : List Pins) : State where
  h := freeStateWords draw 0
  m := freeBlockWords draw 5
  work := freeWork draw 21
  ws := freeBlockWords draw 26
  t := 0
  busy := false
  hWritten := Vector.replicate 5 false
  mWritten := Vector.replicate 16 false
  port := rest
  rsp := none
  draws := draw + 1

/-- The machine right after reset with nothing driven on its ports (R36). Power-on is a reset in this sense (R180). -/
def State.reset : State := State.afterReset 0 []

end Sys2Proof.Machine
end

