-- ==== Sys2Proof/Machine/Ops.lean ====
section
/-!
DEFINITION. The named operations on the registers and the ports that every meaning is built from, the one exception
(60_exceptions R161), and reset (70_reset_and_hazards R180).
-/

namespace Sys2Proof.Machine

/-! Registers. No two alias and none has a side effect on a read or a write (R38). -/

/-- `H[i]` (R21). -/
def State.readH (s : State) (i : Fin 5) : Word := s.h[i]

/-- `H[i] <- v`: that one word, which counts as written from now on (R37, R38). -/
def State.writeH (s : State) (i : Fin 5) (v : Word) : State :=
  { s with h := s.h.set i.val v, hWritten := s.hWritten.set i.val true }

/-- `H[0..4] <- v` in one step, all five words written (R57, R37). -/
def State.writeAllH (s : State) (v : StateWords) : State :=
  { s with h := v, hWritten := Vector.replicate 5 true }

/-- `M[j] <- v`: that one word, which counts as written from now on (R37, R38). -/
def State.writeM (s : State) (j : Fin 16) (v : Word) : State :=
  { s with m := s.m.set j.val v, mWritten := s.mWritten.set j.val true }

/-- Every word of `H` and `M` has been written since reset (R37). -/
def State.allWritten (s : State) : Bool :=
  decide (s.hWritten = Vector.replicate 5 true) && decide (s.mWritten = Vector.replicate 16 true)

/-! Responses. -/

/-- `respond(code, data)` (R11, R77). -/
def State.respond (s : State) (code : RspCode) (data : Word) : State := { s with rsp := some ⟨code, data⟩ }

/-- No response at this step: `rsp_valid = 0` (R78). -/
def State.noResponse (s : State) : State := { s with rsp := none }

/-- Taking the one exception, IllegalCommand (R161, R165): no register changes, nothing is saved, no mode or mask changes,
control goes nowhere; the response is the whole report. There is no return from it and nothing to restore (R166). -/
def State.raiseIllegal (s : State) : State := s.respond .illegal 0

/-! The input ports (R78, R79). -/

/-- What the host drives when it drives nothing: no reset, no command. -/
def Pins.quiet : Pins := ⟨false, false, 0⟩

/-- What the host drives at this step. -/
def State.pins (s : State) : Pins :=
  match s.port with
  | [] => Pins.quiet
  | p :: _ => p

/-- This step's entry of the port is over. -/
def State.takePins (s : State) : State := { s with port := s.port.tail }

/-- The port after a step in which the engine is not ready: a command presented is not accepted and the host must keep it
stable until it is (R79), so it stays; anything else is over. -/
def State.holdPins (s : State) : State := if s.pins.cmdValid then s else s.takePins

/-- Reset, at any time and whatever else is happening (R180, R181, R164): `BUSY` and `T` become 0, every data register
becomes unspecified and unwritten, a command in flight is abandoned with no response, and none is accepted. -/
def State.applyReset (s : State) : State := State.afterReset s.draws s.port.tail

end Sys2Proof.Machine
end

