-- ==== Sys2Proof/Machine/Commands.lean ====
section
/-!
DEFINITION. The data-movement commands INIT, LDH, LDW, RDH (41_commands R110 to R114): what each does once it is accepted.
-/

namespace Sys2Proof.Machine

/-- INIT: all five words of `H` become the initial constants (R110). -/
def execInit (s : State) : Host.Outcome State Fault Refusal :=
  .next ((s.writeAllH initialState).respond .ok 0)

/-- LDH i, v: `H[i] <- v`; an index that does not exist is an illegal command (R111, R161 c). -/
def execLdh (i : Idx) (v : Word) (s : State) : Host.Outcome State Fault Refusal :=
  match hSpace i with
  | some k => .next ((s.writeH k v).respond .ok 0)
  | none => .next s.raiseIllegal

/-- LDW j, v: `M[j] <- v` (R112). -/
def execLdw (j : Idx) (v : Word) (s : State) : Host.Outcome State Fault Refusal :=
  .next ((s.writeM (mSpace j) v).respond .ok 0)

/-- RDH i: the response carries `H[i]`, the register as it stands, unwritten or not (log 3); no register changes. An index
that does not exist is an illegal command (R113, R161 d). -/
def execRdh (i : Idx) (s : State) : Host.Outcome State Fault Refusal :=
  match hSpace i with
  | some k => .next (s.respond .ok (s.readH k))
  | none => .next s.raiseIllegal

end Sys2Proof.Machine
end

