-- ==== Sys2Proof/Machine/Compress.lean ====
section
/-!
DEFINITION. COMPRESS twice over: as mathematics on a state and a block (42_compress R121 to R124), and as the sequencer's
micro-steps on the internal registers, which is what the machine runs (R125 to R127).
-/

namespace Sys2Proof.Machine

/-! The architectural meaning. -/

/-- The schedule of a block as far as word `15 + n`: the block, then `n` words by the recurrence (R121). The word added at
position `i = n + 16` reads the words `i-3`, `i-8`, `i-14` and `i-16`. -/
def expand (m : BlockWords) : (n : Nat) → Vector Word (16 + n)
  | 0 => m
  | n + 1 =>
    let w := expand m n
    w.push (rotl (w[n + 13] ^^^ w[n + 8] ^^^ w[n + 2] ^^^ w[n]) 1)

/-- The message schedule `w[0..79]` (R121). -/
def schedule (m : BlockWords) : Vector Word 80 := expand m 64

/-- The schedule word `w[i]`, for every `i`: R128 extends the sequence by the same recurrence past 79. -/
def schedWord (m : BlockWords) (i : Nat) : Word := (expand m i)[i]

/-- The round function: five outputs from the five old values and one schedule word (R122). -/
def roundOf (t : Fin 80) (v : Work) (wt : Word) : Work where
  a := add32x5 (rotl v.a 5) (roundF t v.b v.c v.d) v.e (roundK t) wt
  b := v.a
  c := rotl v.b 30
  d := v.c
  e := v.d

/-- `(a, b, c, d, e) = ` the five state words (R124, R125). -/
def Work.ofState (h : StateWords) : Work := ⟨h[0], h[1], h[2], h[3], h[4]⟩

/-- The state mixer: component-wise addition, no carry between words (R123). -/
def mix (h : StateWords) (v : Work) : StateWords :=
  #v[add32 h[0] v.a, add32 h[1] v.b, add32 h[2] v.c, add32 h[3] v.d, add32 h[4] v.e]

/-- `v_t` of R124: the working tuple after the rounds 0 to `t - 1`. There are 80 rounds and no more. -/
def rounds (h : StateWords) (m : BlockWords) : Nat → Work
  | 0 => Work.ofState h
  | t + 1 => if ht : t < 80 then roundOf ⟨t, ht⟩ (rounds h m t) (schedWord m t) else rounds h m t

/-- The compression function (R124). -/
def compress (h : StateWords) (m : BlockWords) : StateWords := mix h (rounds h m 80)

/-! The sequencer. -/

/-- The word the scheduler shifts in (R126). -/
def windowNext (ws : BlockWords) : Word := rotl (ws[13] ^^^ ws[8] ^^^ ws[2] ^^^ ws[0]) 1

/-- The window shifted by one: `WS[j] <- WS[j+1]`, `WS[15] <- wnew` (R126). -/
def windowShift (ws : BlockWords) : BlockWords :=
  Vector.ofFn fun j : Fin 16 => if hj : j.val < 15 then ws[j.val + 1] else windowNext ws

/-- The start step, taken when a COMPRESS is accepted (R125). The response comes with the mix step. -/
def State.startStep (s : State) : State :=
  { s with work := Work.ofState s.h, ws := s.m, t := 0, busy := true, rsp := none }

/-- One round step, every right-hand side from the state before it (R126). In the steps 64 to 79 the word shifted in is
that of the recurrence too, as R126 writes it (log 5). -/
def State.roundStep (s : State) (t : Fin 80) : State :=
  { s with
    work := roundOf t s.work s.ws[0]
    ws := windowShift s.ws
    t := s.t + 1
    rsp := none }

/-- The mix step (R127): `H` is mixed in one step, `T` and `BUSY` go to 0, the command's response is given, and the working
registers and the window are unspecified from here on. A COMPRESS whose inputs were not all written since reset leaves all
five words of `H` unspecified, so unwritten (R37; log 3). -/
def State.mixStep (s : State) : State :=
  { s with
    h := if s.allWritten then mix s.h s.work else freeStateWords s.draws 21
    hWritten := if s.allWritten then s.hWritten else Vector.replicate 5 false
    work := freeWork s.draws 0
    ws := freeBlockWords s.draws 5
    t := 0
    busy := false
    rsp := some ⟨.ok, 0⟩
    draws := s.draws + 1 }

/-- One micro-step while `BUSY = 1`: a round step while `T < 80`, the mix step at `T = 80` (R126, R127, R129). No rule gives
a step for the other values of `T`, which are unreachable (R28; log 4). -/
def State.sequencerStep (s : State) : Host.Outcome State Fault Refusal :=
  if ht : s.t.toNat < 80 then .next (s.roundStep ⟨s.t.toNat, ht⟩)
  else if s.t.toNat = 80 then .next s.mixStep
  else .fault .roundCounterRange

/-- COMPRESS, once accepted: the start step (R120, R125). The 80 round steps and the mix step follow, one a step. -/
def execCompress (s : State) : Host.Outcome State Fault Refusal := .next s.startStep

end Sys2Proof.Machine
end

