-- ==== Sys2Proof/Machine/Dispatch.lean ====
section
/-!
DEFINITION. One arm per command: what an accepted, legal command does (30_encoding R74).
-/

namespace Sys2Proof.Machine

def exec (i : Instr) (s : State) : Host.Outcome State Fault Refusal :=
  match i with
  | .init => Sys2Proof.Machine.execInit s
  | .ldh k v => Sys2Proof.Machine.execLdh k v s
  | .ldw j v => Sys2Proof.Machine.execLdw j v s
  | .compress => Sys2Proof.Machine.execCompress s
  | .rdh k => Sys2Proof.Machine.execRdh k s

end Sys2Proof.Machine
end

