-- ==== Sys2Proof/Machine/Flags.lean ====
section
/-!
DEFINITION. What the engine reports. It has no flags and no condition codes, and no datapath operation computes one
(10_state R31, 40_datapath R101): its whole status is `cmd_ready` and the response (10_state R32, 30_encoding R77, R78).
-/

namespace Sys2Proof.Machine

/-- `CODE`, bits 33:32 of a response word (R77). -/
def rspCodeBits : RspCode → BitVec 2
  | .ok => 0
  | .illegal => 1

/-- The response word `RW = {CODE, RDATA}` (R77). -/
def Response.toWord (r : Response) : RspWord := rspCodeBits r.code ++ r.rdata

/-- `cmd_ready`: a command presented now is accepted at this step, unless reset is asserted. With no time in the model
(log 6) a response is given in the step that completes its command, so this is `BUSY = 0` (R29, R79). -/
def State.cmdReady (s : State) : Bool := !s.busy

/-- `rsp_valid` (R78). -/
def State.rspValid (s : State) : Bool := s.rsp.isSome

/-- `rsp`, which means something only while `rsp_valid = 1` (R78; 93 S11). -/
def State.rspWord (s : State) : Option RspWord := s.rsp.map Response.toWord

end Sys2Proof.Machine
end

