-- ==== Sys2Proof/Machine/Port.lean ====
section
/-!
DEFINITION. The command port (30_encoding R78 to R80): what a step does with what the host drives, and how a word is placed
on the port.
-/

namespace Sys2Proof.Machine

/-- An accepted command word: a legal one is executed, any other takes IllegalCommand (R81, R75, R161). -/
def State.acceptWord (s : State) (cw : CmdWord) : Host.Outcome State Fault Refusal :=
  match decode cw with
  | .ok i => exec i s
  | .error _ => .next s.raiseIllegal

/-- One step of the engine. Reset wins over everything (R164, R180). While `BUSY = 1` the sequencer takes one micro-step and
a command presented waits (R79, R126, R127). Otherwise a command presented is accepted (R79, R80); with none, nothing
happens (R76). -/
def State.portStep (s : State) : Host.Outcome State Fault Refusal :=
  if s.pins.rst then .next s.applyReset
  else if !s.cmdReady then s.holdPins.sequencerStep
  else if s.pins.cmdValid then s.takePins.acceptWord s.pins.cmd
  else .next s.takePins.noResponse

/-- `s` with the command word `cw` presented first on the port of an idle engine, so that the next step accepts it. -/
def State.presentWord (s : State) (cw : CmdWord) : State :=
  { s with port := ⟨false, true, cw⟩ :: s.port, busy := false, t := 0 }

end Sys2Proof.Machine
end

