-- ==== Sys2Proof/Machine/Step.lean ====
section
/-!
DEFINITION. One step of the machine, and how the host places a word on its command port.
-/

namespace Sys2Proof.Machine

/-- One step: one accepted command, one sequencer micro-step, one reset, or nothing (R12, R79, R80). -/
def step (s : State) : Host.Outcome State Fault Refusal := s.portStep

/-- `s` with the word whose lowest `nbits` bits are those of `w` presented on the command port, and the engine idle with
`T = 0` (R28, R29), since a busy engine accepts nothing (R79); nothing else changes (log 8). -/
def State.withFetchWord (s : State) (nbits w : Nat) : State := s.presentWord (tableCmdWord nbits w)

end Sys2Proof.Machine
end

