-- ==== Sys2Proof/Machine/HostHash.lean ====
section
/-!
DEFINITION. The host procedure around the engine: packing, padding, driving, reading the digest (43_host_hash, 20_memory R52 to
R54). It is not hardware and adds no state to the engine (00_scope R5, R140).
-/

namespace Sys2Proof.Machine

/-! Byte order. -/

/-- A word from four bytes, the first most significant (R52). -/
def packWord (b0 b1 b2 b3 : Byte) : Word := b0 ++ b1 ++ b2 ++ b3

/-- The sixteen big-endian words of a block: `M[j]` holds the bytes `4j` to `4j+3` (R52). -/
def packBlock (b : Block) : BlockWords :=
  Vector.ofFn fun j : Fin 16 => packWord b[4 * j.val] b[4 * j.val + 1] b[4 * j.val + 2] b[4 * j.val + 3]

/-- Byte `n` of a word, byte 0 most significant: bits `31 - 8n` to `24 - 8n` (R52, R53). -/
def wordByte (w : Word) (n : Fin 4) : Byte := w.extractLsb' (24 - 8 * n.val) 8

/-- The twenty bytes of a digest, each word big-endian (R53). -/
def digestBytes (h : StateWords) : Vector Byte 20 :=
  Vector.ofFn fun g : Fin 20 => wordByte h[g.val / 4] ⟨g.val % 4, by omega⟩

/-! Padding. -/

/-- The longest message, in bytes (R141). -/
def maxMessageBytes : Nat := 2 ^ 61 - 1

/-- The length of a message in bytes, 0 to 2^61 - 1: eight times it fits the 64-bit length field (R141). No larger length can
be written, so no length field ever wraps (92 D27, 91 N16). -/
abbrev ByteCount := Fin (2 ^ 61)

/-- The length of a message that is not too long. -/
def byteCount (msg : List Byte) (hm : msg.length ≤ maxMessageBytes) : ByteCount :=
  ⟨msg.length, by unfold maxMessageBytes at hm; omega⟩

/-- Byte `n` of the total bit length `8 L`, a big-endian 64-bit integer (R143, R145). `8 L` is below 2^64, so it is the exact
bit length (R141). -/
def lengthByte (total : ByteCount) (n : Fin 8) : Byte := (BitVec.ofNat 64 (8 * total.val)).extractLsb' (56 - 8 * n.val) 8

/-- The first padding buffer: the tail, the byte 0x80 right after it, zeros (R143). -/
def padBuffer (tail : List Byte) : Block :=
  Vector.ofFn fun k : Fin 64 => if hk : k.val < tail.length then tail[k.val] else if k.val = tail.length then 0x80 else 0

/-- A buffer with the length field in its last eight bytes (R143). -/
def withLength (buf : Block) (total : ByteCount) : Block :=
  Vector.ofFn fun k : Fin 64 => if hk : k.val < 56 then buf[k.val] else lengthByte total ⟨k.val - 56, by omega⟩

/-- The padding and length encoder: one block, or two when fewer than 8 bytes remain after the 0x80 byte (R143, R144). The
tail has at most 63 bytes. -/
def pad (tail : List Byte) (_h : tail.length < 64) (total : ByteCount) : List Block :=
  if tail.length + 1 > 56 then [padBuffer tail, withLength (Vector.replicate 64 0) total]
  else [withLength (padBuffer tail) total]

/-! The message and its blocks. -/

/-- The first 64 bytes of a message that has as many. -/
def firstBlock (msg : List Byte) (h : 64 ≤ msg.length) : Block :=
  Vector.ofFn fun k : Fin 64 => msg[k.val]'(Nat.lt_of_lt_of_le k.isLt h)

/-- Full block `q` of a message: the bytes `64q` to `64q + 63` (R142). -/
def fullBlock (msg : List Byte) (q : Fin (msg.length / 64)) : Block :=
  Vector.ofFn fun k : Fin 64 => msg[64 * q.val + k.val]'(by have := q.isLt; have := k.isLt; omega)

/-- The tail of a message: the bytes after its full blocks (R142). -/
def tailOf (msg : List Byte) : List Byte := msg.drop (64 * (msg.length / 64))

/-- A tail has at most 63 bytes (R142). -/
theorem tailOf_length_lt (msg : List Byte) : (tailOf msg).length < 64 := by
  simp only [tailOf, List.length_drop]; omega

/-- The blocks fed to the engine: the full blocks, then the padding blocks of the tail with the total length (R142). A message
longer than R141 allows has none: it is refused rather than given a wrapped length (92 D27; log 11). -/
def messageBlocks (msg : List Byte) (hm : msg.length ≤ maxMessageBytes) : List Block :=
  (List.ofFn fun q : Fin (msg.length / 64) => fullBlock msg q)
    ++ pad (tailOf msg) (tailOf_length_lt msg) (byteCount msg hm)

/-! The driver as a state machine (R147). -/

/-- The driver's states. -/
inductive DriverPhase where
  | readingBlocks
  | padding
  | done
  deriving DecidableEq, Repr

/-- The driver: its phase, the unconsumed bytes, the total length, and the blocks fed to the engine so far. -/
structure Driver where
  phase : DriverPhase
  rest : List Byte
  total : ByteCount
  fed : List Block
  deriving DecidableEq, Repr

/-- The driver at the start of a message (R147). It has no start for a message longer than R141 allows (92 D27; log 11). -/
def Driver.start (msg : List Byte) (hm : msg.length ≤ maxMessageBytes) : Driver :=
  ⟨.readingBlocks, msg, byteCount msg hm, []⟩

/-- One move of the driver: feed a full block while 64 bytes remain, then pad exactly once, then stay done (R147). A padding
phase with 64 bytes or more left, which `readingBlocks` never enters, has no move. -/
def Driver.move (d : Driver) : Driver :=
  match d.phase with
  | .readingBlocks =>
    if h : 64 ≤ d.rest.length then { d with rest := d.rest.drop 64, fed := d.fed ++ [firstBlock d.rest h] }
    else { d with phase := .padding }
  | .padding =>
    if h : d.rest.length < 64 then { d with phase := .done, rest := [], fed := d.fed ++ pad d.rest h d.total } else d
  | .done => d

/-- `n` moves of the driver. -/
def Driver.moves (d : Driver) : Nat → Driver
  | 0 => d
  | n + 1 => d.move.moves n

/-! The digest. -/

/-- The state after the blocks of a list, from `h` (R130, R149). -/
def compressBlocks (h : StateWords) (bs : List Block) : StateWords := bs.foldl (fun h b => compress h (packBlock b)) h

/-- `hash`, the digest of a message, none for a message longer than the rules allow (R141, R149; 92 D27, 93 U5; log 11). -/
def messageDigest (msg : List Byte) : Option StateWords :=
  if hm : msg.length ≤ maxMessageBytes then some (compressBlocks initialState (messageBlocks msg hm)) else none

/-! Command sequences (30_encoding R84, 43_host_hash R148). -/

/-- The commands with an index below `n`, in index order. -/
def indexed (n : Nat) (f : Fin n → Instr) : List Instr := List.ofFn f

/-- LDSTATE (R84). -/
def ldstate (v : StateWords) : List Instr := indexed 5 fun i => .ldh (BitVec.ofNat 4 i.val) v[i]

/-- LDBLK (R84). -/
def ldblk (v : BlockWords) : List Instr := indexed 16 fun j => .ldw (BitVec.ofNat 4 j.val) v[j]

/-- RDDIGEST (R84). -/
def rddigest : List Instr := indexed 5 fun i => .rdh (BitVec.ofNat 4 i.val)

/-- BLOCK (R84). -/
def blockCommands (v : BlockWords) : List Instr := ldblk v ++ [.compress]

/-- The driver as commands for the engine; none for a message that `hash` refuses (R148; 92 D27; log 11). -/
def hashCommands (msg : List Byte) : Option (List Instr) :=
  if hm : msg.length ≤ maxMessageBytes then
    some (.init :: (messageBlocks msg hm).flatMap (fun b => blockCommands (packBlock b)) ++ rddigest)
  else none

end Sys2Proof.Machine
end

