-- ==== Sys2Proof/Machine/Asm.lean ====
section
/-!
DEFINITION. The assembler's lines (30_encoding R83, R84): what words a line stands for, how it is written and how it is read.
-/

namespace Sys2Proof.Machine

/-- A line: a command, a raw word, or a pseudo-instruction. -/
inductive AsmLine where
  | command (i : Instr)
  | rawWord (cw : CmdWord)
  | ldstateLine (v : StateWords)
  | ldblkLine (v : BlockWords)
  | rddigestLine
  | blockLine (v : BlockWords)
  deriving DecidableEq, Repr

/-- The command words of a line, in order (R83, R84). -/
def AsmLine.words : AsmLine → List CmdWord
  | .command i => [encode i]
  | .rawWord cw => [cw]
  | .ldstateLine v => (ldstate v).map encode
  | .ldblkLine v => (ldblk v).map encode
  | .rddigestLine => rddigest.map encode
  | .blockLine v => (blockCommands v).map encode

/-- The words of a program, line after line. -/
def assemble (lines : List AsmLine) : List CmdWord := lines.flatMap AsmLine.words

/-- A hexadecimal digit. -/
def hexDigit (n : Nat) : Char := ['0', '1', '2', '3', '4', '5', '6', '7', '8', '9', 'A', 'B', 'C', 'D', 'E', 'F'].getD (n % 16) '0'

/-- The last `k` hexadecimal digits of a number, most significant first. -/
def hexDigits : (k n : Nat) → List Char
  | 0, _ => []
  | k + 1, n => hexDigits k (n / 16) ++ [hexDigit n]

/-- A word as `0x` and exactly eight digits (R83). -/
def wordText (w : Word) : List Char := '0' :: 'x' :: hexDigits 8 w.toNat

/-- An index in decimal (R83). -/
def indexText (i : Idx) : List Char := (Nat.repr i.toNat).toList

/-- Operands separated by commas (R83). -/
def operandsText : List (List Char) → List Char
  | [] => []
  | [x] => x
  | x :: y :: rest => x ++ (',' :: ' ' :: operandsText (y :: rest))

/-- The text of a line (R83, R84). -/
def AsmLine.text : AsmLine → List Char
  | .command .init => "INIT".toList
  | .command (.ldh i v) => "LDH ".toList ++ operandsText [indexText i, wordText v]
  | .command (.ldw j v) => "LDW ".toList ++ operandsText [indexText j, wordText v]
  | .command .compress => "COMPRESS".toList
  | .command (.rdh i) => "RDH ".toList ++ indexText i
  | .rawWord cw => ".cw 0x".toList ++ hexDigits 10 cw.toNat
  | .ldstateLine v => "LDSTATE ".toList ++ operandsText (v.toList.map wordText)
  | .ldblkLine v => "LDBLK ".toList ++ operandsText (v.toList.map wordText)
  | .rddigestLine => "RDDIGEST".toList
  | .blockLine v => "BLOCK ".toList ++ operandsText (v.toList.map wordText)

/-! Reading a line (R83). -/

/-- The characters before a comment: `;` starts one, to the end of the line. -/
def stripComment (cs : List Char) : List Char := cs.takeWhile fun c => c != ';'

/-- The tokens of a line: runs of characters between blanks, a comma always being a token of its own. `cur` is the token
being read, reversed. -/
def tokens : (cs cur : List Char) → List (List Char)
  | [], [] => []
  | [], c :: cur => [(c :: cur).reverse]
  | ' ' :: cs, [] => tokens cs []
  | ' ' :: cs, c :: cur => (c :: cur).reverse :: tokens cs []
  | ',' :: cs, [] => [','] :: tokens cs []
  | ',' :: cs, c :: cur => (c :: cur).reverse :: [','] :: tokens cs []
  | x :: cs, cur => tokens cs (x :: cur)

/-- The value of a digit in a base of at most 16. -/
def digitValue (base : Nat) (c : Char) : Option Nat :=
  let v := if '0' ≤ c ∧ c ≤ '9' then c.toNat - '0'.toNat
    else if 'A' ≤ c ∧ c ≤ 'F' then c.toNat - 'A'.toNat + 10
    else if 'a' ≤ c ∧ c ≤ 'f' then c.toNat - 'a'.toNat + 10
    else base
  if v < base then some v else none

/-- The value of a run of digits, most significant first; `acc` is the value so far. -/
def digitsValue (base : Nat) : (cs : List Char) → (acc : Nat) → Option Nat
  | [], acc => some acc
  | c :: cs, acc => (digitValue base c).bind fun v => digitsValue base cs (acc * base + v)

/-- `0x` and exactly `k` hexadecimal digits. -/
def readHex (k : Nat) : List Char → Option Nat
  | '0' :: 'x' :: ds => if ds.length = k then digitsValue 16 ds 0 else none
  | _ => none

/-- A word operand: `0x` and exactly eight digits. -/
def readWord (cs : List Char) : Option Word := (readHex 8 cs).map (BitVec.ofNat 32)

/-- An index operand: a decimal number below 16. Whether the index exists is the encoding's matter (R75). -/
def readIndex (cs : List Char) : Option Idx :=
  if cs = [] then none
  else (digitsValue 10 cs 0).bind fun n => if n < 16 then some (BitVec.ofNat 4 n) else none

/-- The operands between the commas of a line. -/
def splitOperands : List (List Char) → Option (List (List Char))
  | [] => some []
  | [x] => if x = [','] then none else some [x]
  | x :: [','] :: y :: rest =>
    if x = [','] then none else (splitOperands (y :: rest)).map fun ys => x :: ys
  | _ => none

/-- Exactly `n` word operands. -/
def readWords (n : Nat) (ops : List (List Char)) : Option (Vector Word n) :=
  (ops.mapM readWord).bind fun ws => if hw : ws.length = n then some ⟨ws.toArray, by simpa using hw⟩ else none

/-- A line whose mnemonic and operands have been told apart; `none` where it is no line of the assembler. A command whose
index does not exist is none either: a raw word is the only way to write an illegal command (R83). -/
def readOperands (mnemonic : List Char) (ops : List (List Char)) : Option AsmLine :=
  if mnemonic = "INIT".toList ∧ ops = [] then some (.command .init)
  else if mnemonic = "COMPRESS".toList ∧ ops = [] then some (.command .compress)
  else if mnemonic = "RDDIGEST".toList ∧ ops = [] then some .rddigestLine
  else if mnemonic = "LDSTATE".toList then (readWords 5 ops).map .ldstateLine
  else if mnemonic = "LDBLK".toList then (readWords 16 ops).map .ldblkLine
  else if mnemonic = "BLOCK".toList then (readWords 16 ops).map .blockLine
  else
    match ops with
    | [x] =>
      if mnemonic = ".cw".toList then (readHex 10 x).map fun n => .rawWord (BitVec.ofNat 40 n)
      else if mnemonic = "RDH".toList then
        (readIndex x).bind fun i => if i.toNat ≤ 4 then some (.command (.rdh i)) else none
      else none
    | [x, y] =>
      (readIndex x).bind fun i => (readWord y).bind fun v =>
        if mnemonic = "LDH".toList ∧ i.toNat ≤ 4 then some (.command (.ldh i v))
        else if mnemonic = "LDW".toList then some (.command (.ldw i v))
        else none
    | _ => none

/-- Reads one line. `some none` is a line with no command on it (R83). -/
def AsmLine.read (cs : List Char) : Option (Option AsmLine) :=
  match tokens (stripComment cs) [] with
  | [] => some none
  | mnemonic :: rest => ((splitOperands rest).bind (readOperands mnemonic)).map some

end Sys2Proof.Machine
end

