-- ==== Sys2Proof/Machine/Engines.lean ====
section
/-!
DEFINITION. A system of several engine instances (20_memory R66, 60_exceptions R170): N_ENGINES is open (00_scope R8), so a
list of any length.
-/

namespace Sys2Proof.Machine

/-- The instances of a system, each with its own registers and ports (R66, R170). -/
abbrev Engines := List State

/-- The instances right after their own resets (R170): instance `k` takes its free values from drawing `first[k]` on. How the
unspecified values of two instances relate is open (R8, R36), so `first` is any list; a statement over every `first` holds
for instances whose values have nothing to do with each other. DESIGN CHOICE (log 10): instances that reach equal drawing
numbers hold equal free words. -/
def Engines.reset (first : List Nat) : Engines := first.map fun draw => State.afterReset draw []

/-- One step of instance `k`, `none` where it does not exist or its step stops. The relative timing of instances is
unobservable (R66, R190), so any order of such steps is a run of the system. -/
def Engines.stepAt (es : Engines) (k : Nat) : Option Engines :=
  match es[k]? with
  | none => none
  | some s =>
    match step s with
    | .next s' => some (es.set k s')
    | .fault _ => none
    | .refused _ => none

end Sys2Proof.Machine
end

