-- ==== Sys2Proof/Safety.lean ====
section
/-!
DEFINITION. What counts as a legal state and as a run the host leaves alone, in the terms the statements use.
-/

namespace Sys2Proof.Machine

/-- The round counter is legal: at most 80, and 0 while the engine is idle (R28, R29). The machine never stops from such a
state. -/
def State.CounterLegal (s : State) : Prop := s.t.toNat ≤ 80 ∧ (s.busy = false → s.t = 0)

/-- While a COMPRESS executes, the working registers are `v_T` of R124 and the window holds those words of `w[T]` to `w[T+15]`
that a round consumes, the words up to `w[79]` (R128), for the state and the block it started from, which are still in `H`
and `M`. -/
def State.TracksCompress (s : State) : Prop :=
  s.busy = true → s.work = rounds s.h s.m s.t.toNat
    ∧ ∀ j : Fin 16, s.t.toNat + j.val < 80 → s.ws[j.val] = schedWord s.m (s.t.toNat + j.val)

/-- While a COMPRESS executes, all of the window is `w[T]` to `w[T+15]`, `w` extended by the same recurrence past `w[79]`
(R128). Its words from `w[80]` on are open (R126; 93 S6): that they follow the recurrence is the model's choice (log 5). -/
def State.TracksWindow (s : State) : Prop :=
  s.busy = true → ∀ j : Fin 16, s.ws[j.val] = schedWord s.m (s.t.toNat + j.val)

/-- The engine accepts the command `cw` at this step: it is idle, `cw` is presented, reset is not asserted (R79). -/
def State.Accepts (s : State) (cw : CmdWord) : Prop :=
  s.busy = false ∧ s.pins.rst = false ∧ s.pins.cmdValid = true ∧ s.pins.cmd = cw

/-- `s` with its port as `n` steps of a busy engine leave it: each idle entry is used up, and a command presented stays at the
head (R79). -/
def State.heldFor (s : State) : (n : Nat) → State
  | 0 => s
  | n + 1 => s.holdPins.heldFor n

/-- None of the entries that `n` steps of a busy engine meet on the port asserts reset. What the host drives is otherwise free:
idle entries, commands, nothing. -/
def State.NoResetFor (s : State) (n : Nat) : Prop := ∀ k : Nat, k < n → (s.heldFor k).pins.rst = false

/-- `n` steps, from the host's interface. -/
def runSteps (n : Nat) (s : State) : Host.Outcome State Fault Refusal :=
  match n with
  | 0 => .next s
  | k + 1 =>
    match step s with
    | .next s' => runSteps k s'
    | .fault r => .fault r
    | .refused r => .refused r

/-- The commands executed one after another, each once accepted (R60, R84). -/
def execAll : List Instr → State → Host.Outcome State Fault Refusal
  | [], s => .next s
  | i :: rest, s =>
    match exec i s with
    | .next s' => execAll rest s'
    | .fault r => .fault r
    | .refused r => .refused r

/-- What the host drives to present a list of commands, each held until it is accepted (R79, R83). -/
def presentAll (cs : List Instr) : List Pins := cs.map fun i => ⟨false, true, encode i⟩

end Sys2Proof.Machine
end

