-- ==== Sys2Proof/Certificates/Slice0/Obligations.lean ====
section
/-!
DEFINITION. The statements for the provers, from the numbered rules of spec/. Nothing is proved here.
-/

open Sys2Proof Sys2Proof.Machine

/-! ## Reset -/

/-- 10_state section 7: after reset `BUSY = 0`, `T = 0`, no response is pending, the engine accepts a command, and no word of
`H` or `M` counts as written. What the data registers hold is a free value (log 1), of which nothing is stated. -/
def Obligations.ResetLeavesEngineReady : Prop :=
  State.reset.busy = false ∧ State.reset.t = 0 ∧ State.reset.rsp = none ∧ State.reset.rspValid = false
  ∧ State.reset.cmdReady = true
  ∧ (∀ i : Fin 5, State.reset.hWritten[i.val] = false) ∧ (∀ j : Fin 16, State.reset.mWritten[j.val] = false)

/-- 70_reset section 1, 60_exceptions section 1: reset at any moment, during a compression or with a command presented, leaves
the engine idle with nothing written and no response, and accepts no command. -/
def Obligations.ResetAtAnyMoment : Prop :=
  ∀ s : State, s.pins.rst = true →
    ∃ u, step s = .next u ∧ u.busy = false ∧ u.t = 0 ∧ u.rsp = none ∧ u.cmdReady = true
      ∧ (∀ i : Fin 5, u.hWritten[i.val] = false) ∧ (∀ j : Fin 16, u.mWritten[j.val] = false)
      ∧ u.port = s.port.tail

/-! ## Encoding -/

/-- 30_encoding sections 2 and 5: decoding the word of a well-formed command gives the command back. -/
def Obligations.DecodeOfEncode : Prop :=
  ∀ i : Instr, i.wellFormed = true → decode (encode i) = .ok i

/-- 30_encoding sections 2 and 5: a word that decodes to a command is the word of that command, which is well formed, so each
command has one word. -/
def Obligations.EncodeOfDecode : Prop :=
  ∀ (cw : CmdWord) (i : Instr), decode cw = .ok i → encode i = cw ∧ i.wellFormed = true

/-- R81: the decoding procedure, over the three fields of `CW = {OP, IDX, DATA}`. -/
def Obligations.DecodeFollowsProcedure : Prop :=
  ∀ (op idx : BitVec 4) (data : Word),
    (decode (op ++ idx ++ data)).toOption =
      (if op = 0x1 ∧ idx = 0 ∧ data = 0 then some .init
      else if op = 0x2 ∧ idx.toNat ≤ 4 then some (.ldh idx data)
      else if op = 0x3 then some (.ldw idx data)
      else if op = 0x4 ∧ idx = 0 ∧ data = 0 then some .compress
      else if op = 0x5 ∧ idx.toNat ≤ 4 ∧ data = 0 then some (.rdh idx)
      else none)

/-- 30_encoding section 3: the illegal words, exhaustively; the all-zero and the all-ones word are among them. -/
def Obligations.IllegalWordsExactly : Prop :=
  (∀ (op idx : BitVec 4) (data : Word),
    legalWord (op ++ idx ++ data) = false ↔
      ((op = 0x0 ∨ 0x6 ≤ op.toNat)
      ∨ ((op = 0x1 ∨ op = 0x4) ∧ (idx ≠ 0 ∨ data ≠ 0))
      ∨ (op = 0x2 ∧ 5 ≤ idx.toNat)
      ∨ (op = 0x5 ∧ (5 ≤ idx.toNat ∨ data ≠ 0))))
  ∧ legalWord 0 = false ∧ legalWord (BitVec.allOnes 40) = false

/-- 30_encoding section 6: the command words as the assembler computes them. -/
def Obligations.AssemblerWordFormulas : Prop :=
  encode .init = 0x1000000000 ∧ encode .compress = 0x4000000000
  ∧ (∀ (i : Idx) (v : Word), encode (.ldh i v) = (0x2000000000 : CmdWord) ||| (i.setWidth 40 <<< 32) ||| v.setWidth 40)
  ∧ (∀ (j : Idx) (v : Word), encode (.ldw j v) = (0x3000000000 : CmdWord) ||| (j.setWidth 40 <<< 32) ||| v.setWidth 40)
  ∧ (∀ i : Idx, encode (.rdh i) = (0x5000000000 : CmdWord) ||| (i.setWidth 40 <<< 32))

/-- Words written out from 30_encoding section 2, one of each command, and what the decoder gives for each. -/
def Obligations.WrittenOutWordsDecode : Prop :=
  decode 0b0001000000000000000000000000000000000000 = .ok .init
  ∧ decode 0b0010010011000011110100101110000111110000 = .ok (.ldh 4 0xC3D2E1F0)
  ∧ decode 0b0011111100000000000000000000000000011000 = .ok (.ldw 15 0x18)
  ∧ decode 0b0100000000000000000000000000000000000000 = .ok .compress
  ∧ decode 0b0101001100000000000000000000000000000000 = .ok (.rdh 3)
  ∧ decodeTableWord 40 0x5300000000 = some (.rdh 3)

/-- R77: the layout of the response word and the codes it can carry. -/
def Obligations.ResponseWordLayout : Prop :=
  (∀ r : Response, r.toWord.extractLsb' 0 32 = r.rdata ∧ r.toWord.extractLsb' 32 2 = rspCodeBits r.code
    ∧ r.toWord.toNat = (rspCodeBits r.code).toNat * 2 ^ 32 + r.rdata.toNat)
  ∧ rspCodeBits .ok = 0 ∧ rspCodeBits .illegal = 1 ∧ (∀ c : RspCode, rspCodeBits c ≠ 2 ∧ rspCodeBits c ≠ 3)

/-! ## The step -/

/-- 30_encoding sections 4 and 5: an idle engine to which a legal word is presented runs exactly the command the word decodes
to, with the port moved past the word; reset is not asserted. -/
def Obligations.StepRunsDecodedCommand : Prop :=
  ∀ (s : State) (cw : CmdWord) (i : Instr), s.Accepts cw → decode cw = .ok i → i.wellFormed = true →
    step s = exec i s.takePins

/-- 60_exceptions section 1: an accepted illegal word, in each of the cases (a) to (d), takes IllegalCommand: no register
changes, the response is (ILLEGAL, 0), and the engine accepts the next command. That `cmd_ready` is 1 already in the state that
presents the response is the model's choice (log 6, DESIGN CHOICE: no time; R79 makes it 1 in the cycle after). -/
def Obligations.IllegalWordTakesException : Prop :=
  ∀ (s : State) (op idx : BitVec 4) (data : Word), s.Accepts (op ++ idx ++ data) →
    ((op = 0x0 ∨ 0x6 ≤ op.toNat)
      ∨ ((op = 0x1 ∨ op = 0x4) ∧ (idx ≠ 0 ∨ data ≠ 0))
      ∨ (op = 0x2 ∧ 5 ≤ idx.toNat)
      ∨ (op = 0x5 ∧ (5 ≤ idx.toNat ∨ data ≠ 0))) →
    ∃ u, step s = .next u ∧ u.rsp = some ⟨.illegal, 0⟩ ∧ u.cmdReady = true
      ∧ u.h = s.h ∧ u.m = s.m ∧ u.work = s.work ∧ u.ws = s.ws ∧ u.t = s.t ∧ u.busy = s.busy
      ∧ u.hWritten = s.hWritten ∧ u.mWritten = s.mWritten ∧ u.draws = s.draws ∧ u.port = s.port.tail

/-- 30_encoding section 3: an idle command port is a no-operation: no register changes and no response is given; and it is the
only one, since every word that is accepted, legal or not, is answered at once or starts the engine. -/
def Obligations.IdlePortChangesNothing : Prop :=
  (∀ s : State, s.busy = false → s.pins.rst = false → s.pins.cmdValid = false →
    step s = .next { s with port := s.port.tail, rsp := none })
  ∧ (∀ (s : State) (cw : CmdWord), s.Accepts cw → ∃ u, step s = .next u ∧ (u.rspValid = true ∨ u.busy = true))

/-- 30_encoding section 4, 70_reset section 3: a command presented to a busy engine is not accepted and stays presented; the
step is the sequencer's, which leaves `M` alone, and `H` too until the mix step. That `cmd_ready` is 1 already in the state that
presents the response is the model's choice (log 6, DESIGN CHOICE: no time; R79 makes it 1 in the cycle after). -/
def Obligations.BusyEngineHoldsCommand : Prop :=
  ∀ s : State, s.busy = true → s.t.toNat ≤ 80 → s.pins.rst = false → s.pins.cmdValid = true →
    ∃ u, step s = .next u ∧ u.port = s.port ∧ u.m = s.m ∧ u.mWritten = s.mWritten
      ∧ (s.t.toNat < 80 → u.busy = true ∧ u.h = s.h ∧ u.hWritten = s.hWritten ∧ u.rsp = none)
      ∧ (s.t.toNat = 80 → u.busy = false ∧ u.cmdReady = true ∧ u.rsp = some ⟨.ok, 0⟩)

/-! ## The data-movement commands -/

/-- 41_commands (INIT): all five words of `H` become the constants of 10_state R22, nothing else changes, INIT twice is INIT
once, and an RDH 2 after it responds 0x98BADCFE. -/
def Obligations.InitLoadsInitialState : Prop :=
  ∀ s : State, ∃ u, exec .init s = .next u
    ∧ u.h = #v[0x67452301, 0xEFCDAB89, 0x98BADCFE, 0x10325476, 0xC3D2E1F0]
    ∧ u.hWritten = Vector.replicate 5 true ∧ u.rsp = some ⟨.ok, 0⟩
    ∧ u.m = s.m ∧ u.mWritten = s.mWritten ∧ u.work = s.work ∧ u.ws = s.ws ∧ u.t = s.t ∧ u.busy = s.busy
    ∧ u.port = s.port ∧ u.draws = s.draws
    ∧ exec .init u = .next u
    ∧ ∃ v, exec (.rdh 2) u = .next v ∧ v.rsp = some ⟨.ok, 0x98BADCFE⟩

/-- R111: LDH writes `H[i]` and no other word, for every `i` in 0 to 4 and every `v`. For 5 to 15 the word is illegal, so no
command: that executing such a term of the syntax takes IllegalCommand and writes no register is the model's choice (log 9,
DESIGN CHOICE); what the spec says of the word is stated by IllegalWordTakesException. -/
def Obligations.LdhWritesOneStateWord : Prop :=
  (∀ (s : State) (i : Idx) (v : Word), i.toNat ≤ 4 → ∃ u, exec (.ldh i v) s = .next u
    ∧ (∀ k : Fin 5, u.h[k.val] = if k.val = i.toNat then v else s.h[k.val])
    ∧ (∀ k : Fin 5, u.hWritten[k.val] = if k.val = i.toNat then true else s.hWritten[k.val])
    ∧ u.rsp = some ⟨.ok, 0⟩
    ∧ u.m = s.m ∧ u.mWritten = s.mWritten ∧ u.work = s.work ∧ u.ws = s.ws ∧ u.t = s.t ∧ u.busy = s.busy
    ∧ u.port = s.port ∧ u.draws = s.draws)
  ∧ (∀ (s : State) (i : Idx) (v : Word), 5 ≤ i.toNat →
    exec (.ldh i v) s = .next { s with rsp := some ⟨.illegal, 0⟩ })
  ∧ encode (.ldh 4 0xC3D2E1F0) = 0x24C3D2E1F0

/-- R112: LDW writes `M[j]` and no other word, for every `j` and every `v`. -/
def Obligations.LdwWritesOneBlockWord : Prop :=
  (∀ (s : State) (j : Idx) (v : Word), ∃ u, exec (.ldw j v) s = .next u
    ∧ (∀ k : Fin 16, u.m[k.val] = if k.val = j.toNat then v else s.m[k.val])
    ∧ (∀ k : Fin 16, u.mWritten[k.val] = if k.val = j.toNat then true else s.mWritten[k.val])
    ∧ u.rsp = some ⟨.ok, 0⟩
    ∧ u.h = s.h ∧ u.hWritten = s.hWritten ∧ u.work = s.work ∧ u.ws = s.ws ∧ u.t = s.t ∧ u.busy = s.busy
    ∧ u.port = s.port ∧ u.draws = s.draws)
  ∧ encode (.ldw 0 0x61626380) = 0x3061626380 ∧ encode (.ldw 15 0x18) = 0x3F00000018

/-- R113: RDH responds with `H[i]` as it stands and changes no register, for every `i` in 0 to 4; a word with an index of 5 to 15
is illegal. After INIT, RDH 3 responds with the word 0x010325476. Two clauses rest on the model's choices: that an RDH of a
word never written since reset responds OK with what the register holds (log 3, DESIGN CHOICE; R37 would have a model fault),
and that executing a term of the syntax with an index of 5 to 15 takes IllegalCommand (log 9, DESIGN CHOICE). -/
def Obligations.RdhRespondsStateWord : Prop :=
  (∀ (s : State) (i : Fin 5), exec (.rdh (BitVec.ofNat 4 i.val)) s = .next { s with rsp := some ⟨.ok, s.h[i.val]⟩ })
  ∧ (∀ (s : State) (i : Idx), 5 ≤ i.toNat → exec (.rdh i) s = .next { s with rsp := some ⟨.illegal, 0⟩ })
  ∧ (∀ (idx : Idx) (data : Word), 5 ≤ idx.toNat ∨ data ≠ 0 → legalWord ((0x5 : BitVec 4) ++ idx ++ data) = false)
  ∧ encode (.rdh 3) = 0x5300000000
  ∧ (∀ s u v : State, exec .init s = .next u → exec (.rdh 3) u = .next v → v.rspWord = some 0x010325476)

/-- 60_exceptions section 1, 41_commands: every well-formed command completes in every state; INIT, LDH, LDW and RDH respond OK
at once, with data 0 unless the command is RDH, and leave `T` and `BUSY` alone; a COMPRESS that no reset meets responds
(OK, 0) after its start step and 81 more steps, its inputs written or not, and the mix step of any busy engine responds so.
That this holds on words never written since reset too is R160's `whatever the engine's state`, which log 3 (DESIGN CHOICE)
takes over the fault that R37 suggests to a model. -/
def Obligations.LegalCommandsRespondOk : Prop :=
  (∀ (s : State) (i : Instr), i.wellFormed = true → i ≠ .compress →
    ∃ u d, exec i s = .next u ∧ u.rsp = some ⟨.ok, d⟩ ∧ u.t = s.t ∧ u.busy = s.busy
      ∧ ((∀ k, i ≠ .rdh k) → d = 0))
  ∧ (∀ s : State, ∃ u, exec .compress s = .next u ∧ u.busy = true ∧ u.rsp = none)
  ∧ (∀ s : State, s.NoResetFor 81 → ∃ s1 u, exec .compress s = .next s1 ∧ runSteps 81 s1 = .next u
      ∧ u.rsp = some ⟨.ok, 0⟩ ∧ u.busy = false ∧ u.t = 0)
  ∧ (∀ s : State, s.busy = true → s.t.toNat = 80 → s.pins.rst = false →
    ∃ u, step s = .next u ∧ u.rsp = some ⟨.ok, 0⟩)

/-- 20_memory section 3: INIT, LDH, LDW and RDH are idempotent: the same command again leaves the same state and gives the same
response. For an index of 5 to 15, which no legal word has, this rests on the model's choice of log 9. -/
def Obligations.RegisterCommandsIdempotent : Prop :=
  ∀ (s u : State) (i : Instr), i ≠ .compress → exec i s = .next u → exec i u = .next u

/-- 30_encoding section 6: LDSTATE with the five initial words has the same effect as INIT, and LDSTATE of any five words, in
any state, completes and sets `H` to them. -/
def Obligations.LdstateSetsState : Prop :=
  (∀ (s : State) (v : StateWords), ∃ u, execAll (ldstate v) s = .next u
    ∧ u = { s with h := v, hWritten := Vector.replicate 5 true, rsp := some ⟨.ok, 0⟩ })
  ∧ (∀ s u : State, exec .init s = .next u → execAll (ldstate initialState) s = .next u)

/-- 30_encoding section 6: LDBLK of any sixteen words, in any state, completes and sets `M` to them and nothing else. -/
def Obligations.LdblkSetsBlock : Prop :=
  ∀ (s : State) (v : BlockWords), ∃ u, execAll (ldblk v) s = .next u
    ∧ u = { s with m := v, mWritten := Vector.replicate 16 true, rsp := some ⟨.ok, 0⟩ }

/-- 30_encoding section 6, 70_reset section 2: the order of two loads of different words does not change the end state: two words
of `M`, two words of `H`, or one of each. -/
def Obligations.LoadOrderImmaterial : Prop :=
  (∀ (s : State) (j k : Idx) (v w : Word), j ≠ k →
    ∃ u, execAll [.ldw j v, .ldw k w] s = .next u ∧ execAll [.ldw k w, .ldw j v] s = .next u)
  ∧ (∀ (s : State) (i k : Idx) (v w : Word), i ≠ k → i.toNat ≤ 4 → k.toNat ≤ 4 →
    ∃ u, execAll [.ldh i v, .ldh k w] s = .next u ∧ execAll [.ldh k w, .ldh i v] s = .next u)
  ∧ (∀ (s : State) (i j : Idx) (v w : Word), i.toNat ≤ 4 →
    ∃ u, execAll [.ldh i v, .ldw j w] s = .next u ∧ execAll [.ldw j w, .ldh i v] s = .next u)

/-! ## COMPRESS: the micro-steps -/

/-- R125: the start step loads the working registers from `H` and the window from `M`, sets `T` to 0 and `BUSY` to 1, and
changes nothing else but that no response is given yet. -/
def Obligations.CompressStartStep : Prop :=
  ∀ s : State, ∃ u, exec .compress s = .next u
    ∧ u.work.a = s.h[0] ∧ u.work.b = s.h[1] ∧ u.work.c = s.h[2] ∧ u.work.d = s.h[3] ∧ u.work.e = s.h[4]
    ∧ (∀ j : Fin 16, u.ws[j.val] = s.m[j.val]) ∧ u.t = 0 ∧ u.busy = true
    ∧ u.h = s.h ∧ u.m = s.m ∧ u.hWritten = s.hWritten ∧ u.mWritten = s.mWritten
    ∧ u.rsp = none ∧ u.port = s.port ∧ u.draws = s.draws

/-- R126: a round step while `BUSY = 1` and `T < 80`, every right-hand side from the state before it. The word shifted in is
stated for `T < 64`; in the round steps 64 to 79 R126 lets it be anything. -/
def Obligations.RoundStepEffect : Prop :=
  ∀ (s : State) (ht : s.t.toNat < 80), s.busy = true → s.pins.rst = false →
    ∃ u, step s = .next u
      ∧ u.work = roundOf ⟨s.t.toNat, ht⟩ s.work s.ws[0]
      ∧ (∀ j (hj : j < 15), u.ws[j] = s.ws[j + 1])
      ∧ (s.t.toNat < 64 → u.ws[15] = rotl (s.ws[13] ^^^ s.ws[8] ^^^ s.ws[2] ^^^ s.ws[0]) 1)
      ∧ u.t.toNat = s.t.toNat + 1
      ∧ u.h = s.h ∧ u.m = s.m ∧ u.busy = s.busy ∧ u.hWritten = s.hWritten ∧ u.mWritten = s.mWritten
      ∧ u.rsp = none ∧ u.draws = s.draws

/-- 42_compress section 3: the mix step, at `T = 80`, of a compression whose inputs were all written: all five words of `H` are
mixed, `T` and `BUSY` become 0, the response is (OK, 0), `M` is as it was. The working registers and the window are
unspecified afterwards, so nothing is stated of them. -/
def Obligations.MixStepEffect : Prop :=
  ∀ s : State, s.busy = true → s.t.toNat = 80 → s.pins.rst = false → s.allWritten = true →
    ∃ u, step s = .next u
      ∧ u.h[0] = add32 s.h[0] s.work.a ∧ u.h[1] = add32 s.h[1] s.work.b ∧ u.h[2] = add32 s.h[2] s.work.c
      ∧ u.h[3] = add32 s.h[3] s.work.d ∧ u.h[4] = add32 s.h[4] s.work.e
      ∧ u.t = 0 ∧ u.busy = false ∧ u.rsp = some ⟨.ok, 0⟩
      ∧ u.m = s.m ∧ u.hWritten = s.hWritten ∧ u.mWritten = s.mWritten

/-- 10_state section 7, 42_compress section 4 (the model's reading, log 3): the mix step of a compression with an input not
written since reset completes too, responds OK, leaves `M` alone, and leaves no word of `H` written; the words themselves are
free values, of which nothing is stated. -/
def Obligations.MixStepOnUnwrittenInputs : Prop :=
  ∀ s : State, s.busy = true → s.t.toNat = 80 → s.pins.rst = false → s.allWritten = false →
    ∃ u, step s = .next u ∧ u.t = 0 ∧ u.busy = false ∧ u.rsp = some ⟨.ok, 0⟩
      ∧ (∀ i : Fin 5, u.hWritten[i.val] = false) ∧ u.m = s.m ∧ u.mWritten = s.mWritten

/-- 42_compress section 3: the window invariant and the agreement of the two descriptions: after the start step and `t` round
steps, `t` up to 80, the window holds those of the words `w[t]` to `w[t+15]` that a round consumes, those up to `w[79]`, and
the working registers are `v_t`; after the mix step `H` is `compress(H, M)`, where all inputs have been written since reset
(10_state section 7, R37). Whatever the host drives in these steps, it does not assert reset. The words of the window past
`w[79]` are in WindowExtendsPastSchedule. -/
def Obligations.MicroStepsAgreeWithMathematics : Prop :=
  ∀ s : State, s.NoResetFor 81 → ∃ s1, exec .compress s = .next s1
    ∧ (∀ t : Nat, t ≤ 80 → ∃ v, runSteps t s1 = .next v ∧ v.busy = true ∧ v.t.toNat = t
      ∧ (∀ (j : Nat) (hj : j < 16) (ht : t + j < 80), v.ws[j] = (schedule s.m)[t + j])
      ∧ v.work = rounds s.h s.m t)
    ∧ (s.allWritten = true → ∃ u, runSteps 81 s1 = .next u ∧ u.h = compress s.h s.m)

/-- 42_compress section 3, THE MODEL'S CHOICE (log 5, DESIGN CHOICE): in the round steps 64 to 79 the window shifts in the words
of the same recurrence, so that all of it is `w[T]` to `w[T+15]` of R128's extended sequence, and every step keeps this. R126
and 93 S6 let an implementation shift in anything there; no round consumes these words. -/
def Obligations.WindowExtendsPastSchedule : Prop :=
  (∀ s : State, 64 ≤ s.t.toNat → s.t.toNat < 80 → s.busy = true → s.pins.rst = false →
    ∃ u, step s = .next u ∧ u.ws[15] = rotl (s.ws[13] ^^^ s.ws[8] ^^^ s.ws[2] ^^^ s.ws[0]) 1)
  ∧ (∀ s : State, s.startStep.TracksWindow)
  ∧ (∀ s u : State, s.TracksWindow → step s = .next u → u.TracksWindow)

/-- 42_compress sections 2 and 4: COMPRESS completes: its start step and 81 more steps leave `H = compress(H, M)`, `M`
unchanged, `T = 0`, `BUSY = 0`, and the response (OK, 0); before the last of them there is no response. Whatever the host drives
in these steps, it does not assert reset; idle entries are used up and a command presented is still there afterwards. -/
def Obligations.CompressAdvancesState : Prop :=
  ∀ s : State, s.NoResetFor 81 → s.allWritten = true → ∃ s1 u, exec .compress s = .next s1
    ∧ runSteps 81 s1 = .next u
    ∧ u.h = compress s.h s.m ∧ u.m = s.m ∧ u.t = 0 ∧ u.busy = false ∧ u.rsp = some ⟨.ok, 0⟩
    ∧ u.hWritten = s.hWritten ∧ u.mWritten = s.mWritten ∧ u.port = (s.heldFor 81).port
    ∧ (∀ k : Nat, k ≤ 80 → ∃ v, runSteps k s1 = .next v ∧ v.rsp = none ∧ v.h = s.h ∧ v.m = s.m)

/-- 10_state section 6: the result of a COMPRESS depends on `H` and `M` only, not on the working registers, the window, the
counter, earlier responses or what else the host drives, short of a reset. -/
def Obligations.CompressIndependentOfHistory : Prop :=
  ∀ s r : State, s.h = r.h → s.m = r.m → s.allWritten = true → r.allWritten = true → s.NoResetFor 81 → r.NoResetFor 81 →
    ∃ s1 r1 u v, exec .compress s = .next s1 ∧ exec .compress r = .next r1
      ∧ runSteps 81 s1 = .next u ∧ runSteps 81 r1 = .next v ∧ u.h = v.h ∧ u.m = v.m ∧ u.rsp = v.rsp

/-! ## COMPRESS: the mathematics -/

/-- R121: the message schedule: the block, then the recurrence; the all-zero and the all-ones block; two words of the "abc"
block. -/
def Obligations.ScheduleRecurrence : Prop :=
  (∀ (m : BlockWords) (i : Nat) (hi : i < 16), (schedule m)[i] = m[i])
  ∧ (∀ (m : BlockWords) (i : Nat) (_h16 : 16 ≤ i) (hi : i < 80), (schedule m)[i] =
      rotl ((schedule m)[i - 3] ^^^ (schedule m)[i - 8] ^^^ (schedule m)[i - 14] ^^^ (schedule m)[i - 16]) 1)
  ∧ (∀ x y : Word, rotl (x ^^^ y) 1 = rotl x 1 ^^^ rotl y 1)
  ∧ (∀ (i : Nat) (hi : i < 80), (schedule (Vector.replicate 16 0))[i] = 0)
  ∧ (∀ (i : Nat) (hi : i < 80), (schedule (Vector.replicate 16 0xFFFFFFFF))[i] = 0xFFFFFFFF
      ∨ (schedule (Vector.replicate 16 0xFFFFFFFF))[i] = 0)
  ∧ (schedule #v[0x61626380, 0, 0, 0, 0, 0, 0, 0, 0, 0, 0, 0, 0, 0, 0, 0x18])[16] = 0xC2C4C700
  ∧ (schedule #v[0x61626380, 0, 0, 0, 0, 0, 0, 0, 0, 0, 0, 0, 0, 0, 0, 0x18])[19] = 0x85898E01

/-- R122: the round function, every output from the old values, and its worked example. -/
def Obligations.RoundFunctionOutputs : Prop :=
  (∀ (t : Fin 80) (v : Work) (wt : Word),
    (roundOf t v wt).a = add32x5 (rotl v.a 5) (roundF t v.b v.c v.d) v.e (roundK t) wt
    ∧ (roundOf t v wt).b = v.a ∧ (roundOf t v wt).c = rotl v.b 30 ∧ (roundOf t v wt).d = v.c
    ∧ (roundOf t v wt).e = v.d)
  ∧ roundOf 0 ⟨0x67452301, 0xEFCDAB89, 0x98BADCFE, 0x10325476, 0xC3D2E1F0⟩ 0x61626380 =
      ⟨0x0116FC33, 0x67452301, 0x7BF36AE2, 0x98BADCFE, 0x10325476⟩

/-- R123: the mixer adds component by component, with no carry between words, and its worked example. -/
def Obligations.MixerAddsComponents : Prop :=
  (∀ (h : StateWords) (v : Work), mix h v =
    #v[add32 h[0] v.a, add32 h[1] v.b, add32 h[2] v.c, add32 h[3] v.d, add32 h[4] v.e])
  ∧ mix initialState ⟨0x42541B35, 0x5738D5E1, 0x21834873, 0x681E6DF6, 0xD8FDF6AD⟩ =
      #v[0xA9993E36, 0x4706816A, 0xBA3E2571, 0x7850C26C, 0x9CD0D89D]

/-- R124: the compression function: 80 rounds in ascending order, each with the schedule word of its own number, then the
mixer. -/
def Obligations.CompressionIteratesRounds : Prop :=
  ∀ (h : StateWords) (m : BlockWords),
    rounds h m 0 = ⟨h[0], h[1], h[2], h[3], h[4]⟩
    ∧ (∀ t : Fin 80, rounds h m (t.val + 1) = roundOf t (rounds h m t.val) (schedule m)[t.val])
    ∧ compress h m = mix h (rounds h m 80)

/-! ## The datapath -/

/-- R90: addition modulo 2^32, its corner cases and its example. -/
def Obligations.AdditionWraps : Prop :=
  (∀ x y : Word, (add32 x y).toNat = (x.toNat + y.toNat) % 2 ^ 32) ∧ (∀ x : Word, add32 x 0 = x)
  ∧ add32 0xFFFFFFFF 0x00000001 = 0 ∧ add32 0x80000000 0x80000000 = 0 ∧ add32 0xFFFFFFFF 0xFFFFFFFF = 0xFFFFFFFE
  ∧ add32 0x67452301 0x42541B35 = 0xA9993E36

/-- R91: rotate-left by 0 < n < 32: bit `i` goes to bit `(i + n) mod 32`, and the corner cases; and the rotate by 30 is a
rotate-right by 2 (R92's remark). -/
def Obligations.RotateLeftMovesBits : Prop :=
  (∀ (x : Word) (n : Nat) (hn : 0 < n ∧ n < 32), rotl x n hn = (x <<< n) ||| (x >>> (32 - n))
    ∧ (∀ i : Nat, i < 32 → (rotl x n hn).getLsbD ((i + n) % 32) = x.getLsbD i))
  ∧ (∀ (n : Nat) (hn : 0 < n ∧ n < 32), rotl 0 n hn = 0 ∧ rotl 0xFFFFFFFF n hn = 0xFFFFFFFF)
  ∧ rotl 0x80000000 1 = 0x00000001 ∧ rotl 0x00000001 30 = 0x40000000 ∧ rotl 0x00000004 30 = 0x00000001
  ∧ rotl 0xF8000000 5 = 0x0000001F ∧ rotl 0x12345678 5 = 0x468ACF02
  ∧ (∀ x : Word, rotl x 30 = (x >>> 2) ||| (x <<< 30))

/-- R94: two-operand addition is associative and commutative, and the five-operand sum is the same for every tree of two-operand
adders whose operands are the five in any order; its corner case and its example. -/
def Obligations.FiveOperandSum : Prop :=
  (∀ x y z : Word, add32 (add32 x y) z = add32 x (add32 y z) ∧ add32 x y = add32 y x)
  ∧ (∀ (p q r s u : Word) (tree : AddTree), tree.operands.Perm [p, q, r, s, u] → tree.sum = add32x5 p q r s u)
  ∧ (∀ p q r s u : Word, (add32x5 p q r s u).toNat = (p.toNat + q.toNat + r.toNat + s.toNat + u.toNat) % 2 ^ 32
    ∧ add32x5 p q r s u = add32 (add32 (add32 (add32 p q) r) s) u
    ∧ add32x5 p q r s u = add32 p (add32 (add32 q r) (add32 s u)))
  ∧ (∀ v w : List Word, v.Perm w → v.foldl add32 0 = w.foldl add32 0)
  ∧ (∀ p q r s u : Word, add32x5 p q r s u = [p, q, r, s, u].foldl add32 0)
  ∧ add32x5 0xFFFFFFFF 0xFFFFFFFF 0xFFFFFFFF 0xFFFFFFFF 0xFFFFFFFF = 0xFFFFFFFB
  ∧ add32x5 0xE8A4602C 0x98BADCFE 0xC3D2E1F0 0x5A827999 0x61626380 = 0x0116FC33

/-- R99: the truth table of the three round functions, bit by bit; with R95, R96 and R98: their formulas, corner cases,
equivalent forms and examples. -/
def Obligations.RoundFunctionsTruthTable : Prop :=
  (∀ (b c d : Word) (i : Nat), i < 32 →
    (fCh b c d).getLsbD i = (if b.getLsbD i then c.getLsbD i else d.getLsbD i)
    ∧ (fPar b c d).getLsbD i = ((b.getLsbD i != c.getLsbD i) != d.getLsbD i)
    ∧ (fMaj b c d).getLsbD i = decide (2 ≤ (b.getLsbD i).toNat + (c.getLsbD i).toNat + (d.getLsbD i).toNat))
  ∧ (∀ b c d : Word, fCh b c d = (b &&& c) ||| (~~~b &&& d) ∧ fCh b c d = d ^^^ (b &&& (c ^^^ d))
    ∧ (b &&& c) &&& (~~~b &&& d) = 0 ∧ fCh b c d = (b &&& c) ^^^ (~~~b &&& d) ∧ fCh b c d = (b &&& c) + (~~~b &&& d)
    ∧ fPar b c d = b ^^^ c ^^^ d
    ∧ fMaj b c d = (b &&& c) ||| (b &&& d) ||| (c &&& d) ∧ fMaj b c d = (b &&& c) ||| (d &&& (b ||| c)))
  ∧ (∀ c d : Word, fCh 0xFFFFFFFF c d = c ∧ fCh 0 c d = d ∧ fCh c d d = d ∧ fPar c c d = d ∧ fMaj c c d = c
    ∧ fMaj 0 c d = c &&& d ∧ fMaj 0xFFFFFFFF c d = c ||| d)
  ∧ fPar 0 0 0 = 0 ∧ fPar 0xFFFFFFFF 0xFFFFFFFF 0xFFFFFFFF = 0xFFFFFFFF
  ∧ fCh 0xF0F0F0F0 0xCCCCCCCC 0xAAAAAAAA = 0xCACACACA ∧ fPar 0xF0F0F0F0 0xCCCCCCCC 0xAAAAAAAA = 0x96969696
  ∧ fMaj 0xF0F0F0F0 0xCCCCCCCC 0xAAAAAAAA = 0xE8E8E8E8 ∧ fCh 0xEFCDAB89 0x98BADCFE 0x10325476 = 0x98BADCFE

/-- R100 and R97: the round number alone selects the function and the constant, at inclusive boundaries. -/
def Obligations.RoundSelection : Prop :=
  ∀ (t : Fin 80) (b c d : Word),
    (t.val ≤ 19 → roundF t b c d = fCh b c d ∧ roundK t = 0x5A827999)
    ∧ (20 ≤ t.val ∧ t.val ≤ 39 → roundF t b c d = fPar b c d ∧ roundK t = 0x6ED9EBA1)
    ∧ (40 ≤ t.val ∧ t.val ≤ 59 → roundF t b c d = fMaj b c d ∧ roundK t = 0x8F1BBCDC)
    ∧ (60 ≤ t.val → roundF t b c d = fPar b c d ∧ roundK t = 0xCA62C1D6)

/-! ## The whole machine -/

/-- 10_state section 4: every step keeps the round counter legal: at most 80, and 0 while idle. -/
def Obligations.StepKeepsCounterLegal : Prop :=
  ∀ s u : State, s.CounterLegal → step s = .next u → u.CounterLegal

/-- 42_compress section 3: from every state whose counter is legal, every step keeps the working registers, and the words of the
window that a round is still to consume (those up to `w[79]`), on the track of the compression of what `H` and `M` hold. -/
def Obligations.StepKeepsCompressTrack : Prop :=
  ∀ s u : State, s.CounterLegal → s.TracksCompress → step s = .next u → u.CounterLegal ∧ u.TracksCompress

/-- 10_state section 7: both invariants hold after reset. -/
def Obligations.InvariantsHoldAfterReset : Prop :=
  State.reset.CounterLegal ∧ State.reset.TracksCompress

/-- 60_exceptions section 4: there is no stuck state: from every state whose counter is legal, the next step is a next state,
never a fault or a refusal, whatever the host drives. -/
def Obligations.LegalStateNeverStops : Prop :=
  ∀ s : State, s.CounterLegal → ∃ u, step s = .next u

/-- 10_state section 3: without a reset, `M` changes in no step but one that accepts an LDW, which changes the word it names;
no COMPRESS changes it. -/
def Obligations.BlockWrittenOnlyByLdw : Prop :=
  ∀ s u : State, s.pins.rst = false → step s = .next u →
    (u.m = s.m ∧ u.mWritten = s.mWritten)
    ∨ (∃ j v, s.Accepts (encode (.ldw j v)) ∧ u.m = s.m.set j.toNat v j.isLt ∧ u.h = s.h)

/-- 10_state section 2: without a reset, `H` changes only in a step that accepts an INIT or an LDH, or in a mix step. -/
def Obligations.StateWrittenOnlyByInitLdhMix : Prop :=
  ∀ s u : State, s.pins.rst = false → step s = .next u →
    (u.h = s.h ∧ u.hWritten = s.hWritten)
    ∨ (s.Accepts (encode .init) ∧ u.h = initialState)
    ∨ (∃ (i : Fin 5) (v : Word), s.Accepts (encode (.ldh (BitVec.ofNat 4 i.val) v)) ∧ u.h = s.h.set i.val v)
    ∨ (s.busy = true ∧ s.t.toNat = 80 ∧ (s.allWritten = true → u.h = mix s.h s.work))

/-- 10_state section 4, 41_commands: without a reset, no command but COMPRESS touches the working registers, the window, `T`
or `BUSY` of an idle engine. -/
def Obligations.SequencerMovesOnlyInCompress : Prop :=
  ∀ s u : State, s.pins.rst = false → s.busy = false → step s = .next u →
    (u.work = s.work ∧ u.ws = s.ws ∧ u.t = s.t ∧ u.busy = false)
    ∨ (s.Accepts (encode .compress) ∧ u.busy = true)

/-- 10_state section 7: a word of `H` becomes written only by INIT, by LDH of that word, or stays so; a word of `M` only by LDW
of that word, or stays so. -/
def Obligations.WrittenBitsFollowWrites : Prop :=
  ∀ s u : State, s.pins.rst = false → step s = .next u →
    (∀ k : Fin 5, u.hWritten[k.val] = true → s.hWritten[k.val] = true ∨ s.Accepts (encode .init)
      ∨ ∃ v, s.Accepts (encode (.ldh (BitVec.ofNat 4 k.val) v)))
    ∧ (∀ k : Fin 16, u.mWritten[k.val] = true → s.mWritten[k.val] = true
      ∨ ∃ v, s.Accepts (encode (.ldw (BitVec.ofNat 4 k.val) v)))

/-- 30_encoding sections 2 and 4: without a reset, a step gives a response exactly when it accepts a word other than COMPRESS or
is the mix step of one; so every accepted word has exactly one response. -/
def Obligations.OneResponsePerCommand : Prop :=
  ∀ s u : State, s.pins.rst = false → step s = .next u →
    (u.rspValid = true ↔ (s.busy = false ∧ s.pins.cmdValid = true ∧ s.pins.cmd ≠ 0x4000000000)
      ∨ (s.busy = true ∧ s.t.toNat = 80))

/-- R115: LDSTATE, LDBLK, COMPRESS, RDDIGEST of any five and any sixteen words,
presented to any idle engine, give in the last five responses the five words of `compress` of those words. The 103 steps
before them are 5 loads of `H`, 16 of `M` and 82 of COMPRESS. -/
def Obligations.CallSequenceReturnsCompress : Prop :=
  ∀ (s : State) (h : StateWords) (m : BlockWords), s.busy = false →
    s.port = presentAll (ldstate h ++ ldblk m ++ [.compress] ++ rddigest) →
    ∀ i : Fin 5, ∃ u, runSteps (104 + i.val) s = .next u ∧ u.rsp = some ⟨.ok, (compress h m)[i.val]⟩

/-- 20_memory section 4, 60_exceptions section 3: a step of one engine instance leaves every other instance as it was, and does
what that instance's own step does. -/
def Obligations.EnginesDoNotInterfere : Prop :=
  ∀ (es fs : Engines) (k : Nat), es.stepAt k = some fs →
    (∀ j : Nat, j ≠ k → fs[j]? = es[j]?) ∧ (∃ s u, es[k]? = some s ∧ step s = .next u ∧ fs[k]? = some u)
    ∧ fs.length = es.length

/-! ## The host procedure -/

/-- R52: the sixteen words of a block are big-endian: as a shift and as a slice. -/
def Obligations.BlockPackedBigEndian : Prop :=
  ∀ b : Block,
    (∀ (j : Nat) (hj : j < 16), (packBlock b)[j] =
      (b[4 * j].setWidth 32 <<< 24) ||| (b[4 * j + 1].setWidth 32 <<< 16) ||| (b[4 * j + 2].setWidth 32 <<< 8)
        ||| b[4 * j + 3].setWidth 32)
    ∧ (∀ (k : Nat) (hk : k < 64), b[k] = ((packBlock b)[k / 4]).extractLsb' (24 - 8 * (k % 4)) 8)

/-- 20_memory section 2: digest byte `4i + n` is bits `31 - 8n` to `24 - 8n` of `H[i]`, so each word is its four bytes in
order. -/
def Obligations.DigestBytesBigEndian : Prop :=
  ∀ h : StateWords,
    (∀ (i n : Nat) (hi : i < 5) (hn : n < 4), (digestBytes h)[4 * i + n] = h[i].extractLsb' (24 - 8 * n) 8)
    ∧ (∀ (i : Nat) (hi : i < 5), packWord (digestBytes h)[4 * i] (digestBytes h)[4 * i + 1] (digestBytes h)[4 * i + 2]
      (digestBytes h)[4 * i + 3] = h[i])

/-- R142: the blocks of a message, in order: the full blocks with their bytes, then the padding blocks of the tail; one of them
when the tail has at most 55 bytes, two when it has 56 or more. A message has at most 2^61 - 1 bytes (R141). -/
def Obligations.MessagePartition : Prop :=
  ∀ (msg : List Byte) (hm : msg.length ≤ maxMessageBytes),
    (∀ (q k : Nat) (_hq : q < msg.length / 64) (hk : k < 64), ∃ b : Block, (messageBlocks msg hm)[q]? = some b
      ∧ msg[64 * q + k]? = some b[k])
    ∧ (messageBlocks msg hm).drop (msg.length / 64) = pad (tailOf msg) (tailOf_length_lt msg) (byteCount msg hm)
    ∧ (tailOf msg).length = msg.length % 64
    ∧ (∀ k : Nat, (tailOf msg)[k]? = msg[64 * (msg.length / 64) + k]?)
    ∧ (messageBlocks msg hm).length = msg.length / 64 + (if msg.length % 64 ≤ 55 then 1 else 2)

/-- R143, R144: the bytes of the padding blocks of a tail of `r` bytes. With `r` at most 55 the one block is the
tail, 0x80, zeros, the length field; with `r` from 56 the first is the tail, 0x80, zeros and the second is zeros and the length
field. The length field is the big-endian bit length, exact for every total length a message can have (R141). -/
def Obligations.PaddingBytes : Prop :=
  ∀ (tail : List Byte) (hr : tail.length < 64) (total : ByteCount),
    (tail.length ≤ 55 → ∃ b : Block, pad tail hr total = [b]
      ∧ (∀ (k : Nat) (hk : k < tail.length), b[k] = tail[k]) ∧ b[tail.length] = 0x80
      ∧ (∀ (k : Nat) (hk : k < 56), tail.length < k → b[k] = 0)
      ∧ (∀ (n : Nat) (hn : n < 8), b[56 + n].toNat = 8 * total.val / 2 ^ (56 - 8 * n) % 256))
    ∧ (56 ≤ tail.length → ∃ b b2 : Block, pad tail hr total = [b, b2]
      ∧ (∀ (k : Nat) (hk : k < tail.length), b[k] = tail[k]) ∧ b[tail.length] = 0x80
      ∧ (∀ (k : Nat) (hk : k < 64), tail.length < k → b[k] = 0)
      ∧ (∀ (k : Nat) (hk : k < 56), b2[k] = 0)
      ∧ (∀ (n : Nat) (hn : n < 8), b2[56 + n].toNat = 8 * total.val / 2 ^ (56 - 8 * n) % 256))

/-- R145: in the last block of a message `M[14]` is the upper and `M[15]` the lower half of the total bit
length. -/
def Obligations.LengthFieldWords : Prop :=
  ∀ (msg : List Byte) (hm : msg.length ≤ maxMessageBytes), ∃ b : Block, (messageBlocks msg hm).getLast? = some b
    ∧ (packBlock b)[14].toNat = 8 * msg.length / 2 ^ 32 ∧ (packBlock b)[15].toNat = 8 * msg.length % 2 ^ 32

/-- 43_host_hash section 3: the driver, as a state machine, is done after one move for each full block and two more, and has fed
exactly the blocks of the message; it then stays done. A message has at most 2^61 - 1 bytes (R141). -/
def Obligations.DriverFeedsMessageBlocks : Prop :=
  ∀ (msg : List Byte) (hm : msg.length ≤ maxMessageBytes) (k : Nat),
    ((Driver.start msg hm).moves (msg.length / 64 + 2 + k)).phase = .done
    ∧ ((Driver.start msg hm).moves (msg.length / 64 + 2 + k)).fed = messageBlocks msg hm

/-- 43_host_hash section 3: the number of commands of a hash. That a message longer than 2^61 - 1 bytes has no commands and no
digest is the model's choice (log 11, DESIGN CHOICE): R141 says that what a host should do with one is not said, and 92 D27
has a model refuse it. -/
def Obligations.HashCommandCount : Prop :=
  ∀ msg : List Byte,
    (msg.length ≤ maxMessageBytes → ∃ cs, hashCommands msg = some cs
      ∧ cs.length = 1 + 17 * (msg.length / 64 + (if msg.length % 64 ≤ 55 then 1 else 2)) + 5
      ∧ ∀ i ∈ cs, i.wellFormed = true)
    ∧ (maxMessageBytes < msg.length → hashCommands msg = none ∧ messageDigest msg = none)

/-- 43_host_hash section 3: the driver's commands, presented to any idle engine, give in the last five responses the five words
of the digest of the message. -/
def Obligations.HashCommandsReturnDigest : Prop :=
  ∀ (s : State) (msg : List Byte) (hm : msg.length ≤ maxMessageBytes) (cs : List Instr) (digest : StateWords),
    s.busy = false → hashCommands msg = some cs → messageDigest msg = some digest → s.port = presentAll cs →
    ∀ i : Fin 5, ∃ u, runSteps (2 + 98 * (messageBlocks msg hm).length + i.val) s = .next u
      ∧ u.rsp = some ⟨.ok, digest[i.val]⟩
end

