-- ==== Sys2Proof/Laws/Compress.lean ====
section
/-!
SUPPORT. The words of the window, of the mixer and of the free values, by index.
-/

namespace Sys2Proof.Machine

@[simp] theorem Work.ofState_a (h : StateWords) : (Work.ofState h).a = h[0] := rfl
@[simp] theorem Work.ofState_b (h : StateWords) : (Work.ofState h).b = h[1] := rfl
@[simp] theorem Work.ofState_c (h : StateWords) : (Work.ofState h).c = h[2] := rfl
@[simp] theorem Work.ofState_d (h : StateWords) : (Work.ofState h).d = h[3] := rfl
@[simp] theorem Work.ofState_e (h : StateWords) : (Work.ofState h).e = h[4] := rfl

@[simp] theorem roundOf_a (t : Fin 80) (v : Work) (wt : Word) :
    (roundOf t v wt).a = add32x5 (rotl v.a 5) (roundF t v.b v.c v.d) v.e (roundK t) wt := rfl
@[simp] theorem roundOf_b (t : Fin 80) (v : Work) (wt : Word) : (roundOf t v wt).b = v.a := rfl
@[simp] theorem roundOf_c (t : Fin 80) (v : Work) (wt : Word) : (roundOf t v wt).c = rotl v.b 30 := rfl
@[simp] theorem roundOf_d (t : Fin 80) (v : Work) (wt : Word) : (roundOf t v wt).d = v.c := rfl
@[simp] theorem roundOf_e (t : Fin 80) (v : Work) (wt : Word) : (roundOf t v wt).e = v.d := rfl

theorem windowShift_of_lt (ws : BlockWords) (j : Nat) (hj : j < 15) :
    (windowShift ws)[j] = ws[j + 1] := by simp [windowShift, hj]

theorem windowShift_last (ws : BlockWords) : (windowShift ws)[15] = windowNext ws := by simp [windowShift]

@[simp] theorem freeStateWords_getElem (draw base i : Nat) (hi : i < 5) :
    (freeStateWords draw base)[i] = Config.freeWord draw (base + i) := by simp [freeStateWords]

@[simp] theorem freeBlockWords_getElem (draw base j : Nat) (hj : j < 16) :
    (freeBlockWords draw base)[j] = Config.freeWord draw (base + j) := by simp [freeBlockWords]

/-- The word `w[i]` does not change as the schedule grows (R121). -/
theorem expand_succ_getElem (m : BlockWords) (n i : Nat) (hi : i < 16 + n) :
    (expand m (n + 1))[i]'(by omega) = (expand m n)[i] := by
  show ((expand m n).push _)[i]'(by omega) = _
  rw [Vector.getElem_push_lt hi]

theorem expand_add_getElem (m : BlockWords) (n k i : Nat) (hi : i < 16 + n) :
    (expand m (n + k))[i]'(by omega) = (expand m n)[i] := by
  induction k with
  | zero => rfl
  | succ k ih => exact (expand_succ_getElem m (n + k) i (by omega)).trans ih

/-- Any list of the schedule that reaches word `i` holds `w[i]` there. -/
theorem expand_getElem_eq_schedWord (m : BlockWords) (n i : Nat) (hi : i < 16 + n) :
    (expand m n)[i] = schedWord m i := by
  unfold schedWord
  rcases Nat.le_total n i with h | h
  · obtain ⟨k, rfl⟩ := Nat.exists_eq_add_of_le h
    exact (expand_add_getElem m n k _ hi).symm
  · obtain ⟨k, rfl⟩ := Nat.exists_eq_add_of_le h
    exact expand_add_getElem m i k i (by omega)

end Sys2Proof.Machine
end

