-- ==== Sys2Proof/Laws/Datapath.lean ====
section
/-!
SUPPORT. The datapath functions in the standard library's terms.
-/

namespace Sys2Proof.Machine

theorem add32_eq_add (x y : Word) : add32 x y = x + y := by
  apply BitVec.eq_of_toNat_eq; simp [add32]

theorem add32x5_eq_add (p q r s u : Word) : add32x5 p q r s u = p + q + r + s + u := by
  apply BitVec.eq_of_toNat_eq; simp [add32x5]

@[simp] theorem AddTree.operands_operand (x : Word) : (AddTree.operand x).operands = [x] := rfl
@[simp] theorem AddTree.operands_adder (l r : AddTree) : (AddTree.adder l r).operands = l.operands ++ r.operands := rfl
@[simp] theorem AddTree.sum_operand (x : Word) : (AddTree.operand x).sum = x := rfl
@[simp] theorem AddTree.sum_adder (l r : AddTree) : (AddTree.adder l r).sum = add32 l.sum r.sum := rfl

theorem rotl_eq_rotateLeft (x : Word) (n : Nat) (hn : 0 < n ∧ n < 32) : rotl x n hn = x.rotateLeft n := by
  rw [BitVec.rotateLeft_def, Nat.mod_eq_of_lt hn.2]; rfl

end Sys2Proof.Machine
end

