-- ==== Sys2Proof/Laws/State.lean ====
section
/-!
SUPPORT. One lemma per field per update of the state, so that no later proof unfolds a record update.
-/

namespace Sys2Proof.Machine

variable (s : State)

/-! LDH writes one word of `H` (R111). -/

@[simp] theorem State.writeH_h (i : Fin 5) (v : Word) : (s.writeH i v).h = s.h.set i.val v := rfl
@[simp] theorem State.writeH_m (i : Fin 5) (v : Word) : (s.writeH i v).m = s.m := rfl
@[simp] theorem State.writeH_work (i : Fin 5) (v : Word) : (s.writeH i v).work = s.work := rfl
@[simp] theorem State.writeH_ws (i : Fin 5) (v : Word) : (s.writeH i v).ws = s.ws := rfl
@[simp] theorem State.writeH_t (i : Fin 5) (v : Word) : (s.writeH i v).t = s.t := rfl
@[simp] theorem State.writeH_busy (i : Fin 5) (v : Word) : (s.writeH i v).busy = s.busy := rfl
@[simp] theorem State.writeH_hWritten (i : Fin 5) (v : Word) :
    (s.writeH i v).hWritten = s.hWritten.set i.val true := rfl
@[simp] theorem State.writeH_mWritten (i : Fin 5) (v : Word) : (s.writeH i v).mWritten = s.mWritten := rfl
@[simp] theorem State.writeH_port (i : Fin 5) (v : Word) : (s.writeH i v).port = s.port := rfl
@[simp] theorem State.writeH_rsp (i : Fin 5) (v : Word) : (s.writeH i v).rsp = s.rsp := rfl
@[simp] theorem State.writeH_draws (i : Fin 5) (v : Word) : (s.writeH i v).draws = s.draws := rfl

/-! INIT writes all of `H` (R110). -/

@[simp] theorem State.writeAllH_h (v : StateWords) : (s.writeAllH v).h = v := rfl
@[simp] theorem State.writeAllH_m (v : StateWords) : (s.writeAllH v).m = s.m := rfl
@[simp] theorem State.writeAllH_work (v : StateWords) : (s.writeAllH v).work = s.work := rfl
@[simp] theorem State.writeAllH_ws (v : StateWords) : (s.writeAllH v).ws = s.ws := rfl
@[simp] theorem State.writeAllH_t (v : StateWords) : (s.writeAllH v).t = s.t := rfl
@[simp] theorem State.writeAllH_busy (v : StateWords) : (s.writeAllH v).busy = s.busy := rfl
@[simp] theorem State.writeAllH_hWritten (v : StateWords) : (s.writeAllH v).hWritten = Vector.replicate 5 true := rfl
@[simp] theorem State.writeAllH_mWritten (v : StateWords) : (s.writeAllH v).mWritten = s.mWritten := rfl
@[simp] theorem State.writeAllH_port (v : StateWords) : (s.writeAllH v).port = s.port := rfl
@[simp] theorem State.writeAllH_rsp (v : StateWords) : (s.writeAllH v).rsp = s.rsp := rfl
@[simp] theorem State.writeAllH_draws (v : StateWords) : (s.writeAllH v).draws = s.draws := rfl

/-! LDW writes one word of `M` (R112). -/

@[simp] theorem State.writeM_h (j : Fin 16) (v : Word) : (s.writeM j v).h = s.h := rfl
@[simp] theorem State.writeM_m (j : Fin 16) (v : Word) : (s.writeM j v).m = s.m.set j.val v := rfl
@[simp] theorem State.writeM_work (j : Fin 16) (v : Word) : (s.writeM j v).work = s.work := rfl
@[simp] theorem State.writeM_ws (j : Fin 16) (v : Word) : (s.writeM j v).ws = s.ws := rfl
@[simp] theorem State.writeM_t (j : Fin 16) (v : Word) : (s.writeM j v).t = s.t := rfl
@[simp] theorem State.writeM_busy (j : Fin 16) (v : Word) : (s.writeM j v).busy = s.busy := rfl
@[simp] theorem State.writeM_hWritten (j : Fin 16) (v : Word) : (s.writeM j v).hWritten = s.hWritten := rfl
@[simp] theorem State.writeM_mWritten (j : Fin 16) (v : Word) :
    (s.writeM j v).mWritten = s.mWritten.set j.val true := rfl
@[simp] theorem State.writeM_port (j : Fin 16) (v : Word) : (s.writeM j v).port = s.port := rfl
@[simp] theorem State.writeM_rsp (j : Fin 16) (v : Word) : (s.writeM j v).rsp = s.rsp := rfl
@[simp] theorem State.writeM_draws (j : Fin 16) (v : Word) : (s.writeM j v).draws = s.draws := rfl

/-! A response (R77). -/

@[simp] theorem State.respond_h (c : RspCode) (d : Word) : (s.respond c d).h = s.h := rfl
@[simp] theorem State.respond_m (c : RspCode) (d : Word) : (s.respond c d).m = s.m := rfl
@[simp] theorem State.respond_work (c : RspCode) (d : Word) : (s.respond c d).work = s.work := rfl
@[simp] theorem State.respond_ws (c : RspCode) (d : Word) : (s.respond c d).ws = s.ws := rfl
@[simp] theorem State.respond_t (c : RspCode) (d : Word) : (s.respond c d).t = s.t := rfl
@[simp] theorem State.respond_busy (c : RspCode) (d : Word) : (s.respond c d).busy = s.busy := rfl
@[simp] theorem State.respond_hWritten (c : RspCode) (d : Word) : (s.respond c d).hWritten = s.hWritten := rfl
@[simp] theorem State.respond_mWritten (c : RspCode) (d : Word) : (s.respond c d).mWritten = s.mWritten := rfl
@[simp] theorem State.respond_port (c : RspCode) (d : Word) : (s.respond c d).port = s.port := rfl
@[simp] theorem State.respond_rsp (c : RspCode) (d : Word) : (s.respond c d).rsp = some ⟨c, d⟩ := rfl
@[simp] theorem State.respond_draws (c : RspCode) (d : Word) : (s.respond c d).draws = s.draws := rfl

/-! No response (R78). -/

@[simp] theorem State.noResponse_h : s.noResponse.h = s.h := rfl
@[simp] theorem State.noResponse_m : s.noResponse.m = s.m := rfl
@[simp] theorem State.noResponse_work : s.noResponse.work = s.work := rfl
@[simp] theorem State.noResponse_ws : s.noResponse.ws = s.ws := rfl
@[simp] theorem State.noResponse_t : s.noResponse.t = s.t := rfl
@[simp] theorem State.noResponse_busy : s.noResponse.busy = s.busy := rfl
@[simp] theorem State.noResponse_hWritten : s.noResponse.hWritten = s.hWritten := rfl
@[simp] theorem State.noResponse_mWritten : s.noResponse.mWritten = s.mWritten := rfl
@[simp] theorem State.noResponse_port : s.noResponse.port = s.port := rfl
@[simp] theorem State.noResponse_rsp : s.noResponse.rsp = none := rfl
@[simp] theorem State.noResponse_draws : s.noResponse.draws = s.draws := rfl

/-! IllegalCommand (R161). -/

@[simp] theorem State.raiseIllegal_h : s.raiseIllegal.h = s.h := rfl
@[simp] theorem State.raiseIllegal_m : s.raiseIllegal.m = s.m := rfl
@[simp] theorem State.raiseIllegal_work : s.raiseIllegal.work = s.work := rfl
@[simp] theorem State.raiseIllegal_ws : s.raiseIllegal.ws = s.ws := rfl
@[simp] theorem State.raiseIllegal_t : s.raiseIllegal.t = s.t := rfl
@[simp] theorem State.raiseIllegal_busy : s.raiseIllegal.busy = s.busy := rfl
@[simp] theorem State.raiseIllegal_hWritten : s.raiseIllegal.hWritten = s.hWritten := rfl
@[simp] theorem State.raiseIllegal_mWritten : s.raiseIllegal.mWritten = s.mWritten := rfl
@[simp] theorem State.raiseIllegal_port : s.raiseIllegal.port = s.port := rfl
@[simp] theorem State.raiseIllegal_rsp : s.raiseIllegal.rsp = some ⟨.illegal, 0⟩ := rfl
@[simp] theorem State.raiseIllegal_draws : s.raiseIllegal.draws = s.draws := rfl

/-! An entry of the port is over (R79). -/

@[simp] theorem State.takePins_h : s.takePins.h = s.h := rfl
@[simp] theorem State.takePins_m : s.takePins.m = s.m := rfl
@[simp] theorem State.takePins_work : s.takePins.work = s.work := rfl
@[simp] theorem State.takePins_ws : s.takePins.ws = s.ws := rfl
@[simp] theorem State.takePins_t : s.takePins.t = s.t := rfl
@[simp] theorem State.takePins_busy : s.takePins.busy = s.busy := rfl
@[simp] theorem State.takePins_hWritten : s.takePins.hWritten = s.hWritten := rfl
@[simp] theorem State.takePins_mWritten : s.takePins.mWritten = s.mWritten := rfl
@[simp] theorem State.takePins_port : s.takePins.port = s.port.tail := rfl
@[simp] theorem State.takePins_rsp : s.takePins.rsp = s.rsp := rfl
@[simp] theorem State.takePins_draws : s.takePins.draws = s.draws := rfl

/-! The start step (R125). -/

@[simp] theorem State.startStep_h : s.startStep.h = s.h := rfl
@[simp] theorem State.startStep_m : s.startStep.m = s.m := rfl
@[simp] theorem State.startStep_work : s.startStep.work = Work.ofState s.h := rfl
@[simp] theorem State.startStep_ws : s.startStep.ws = s.m := rfl
@[simp] theorem State.startStep_t : s.startStep.t = 0 := rfl
@[simp] theorem State.startStep_busy : s.startStep.busy = true := rfl
@[simp] theorem State.startStep_hWritten : s.startStep.hWritten = s.hWritten := rfl
@[simp] theorem State.startStep_mWritten : s.startStep.mWritten = s.mWritten := rfl
@[simp] theorem State.startStep_port : s.startStep.port = s.port := rfl
@[simp] theorem State.startStep_rsp : s.startStep.rsp = none := rfl
@[simp] theorem State.startStep_draws : s.startStep.draws = s.draws := rfl

/-! A round step (R126). -/

@[simp] theorem State.roundStep_h (k : Fin 80) : (s.roundStep k).h = s.h := rfl
@[simp] theorem State.roundStep_m (k : Fin 80) : (s.roundStep k).m = s.m := rfl
@[simp] theorem State.roundStep_work (k : Fin 80) : (s.roundStep k).work = roundOf k s.work s.ws[0] := rfl
@[simp] theorem State.roundStep_ws (k : Fin 80) : (s.roundStep k).ws = windowShift s.ws := rfl
@[simp] theorem State.roundStep_t (k : Fin 80) : (s.roundStep k).t = s.t + 1 := rfl
@[simp] theorem State.roundStep_busy (k : Fin 80) : (s.roundStep k).busy = s.busy := rfl
@[simp] theorem State.roundStep_hWritten (k : Fin 80) : (s.roundStep k).hWritten = s.hWritten := rfl
@[simp] theorem State.roundStep_mWritten (k : Fin 80) : (s.roundStep k).mWritten = s.mWritten := rfl
@[simp] theorem State.roundStep_port (k : Fin 80) : (s.roundStep k).port = s.port := rfl
@[simp] theorem State.roundStep_rsp (k : Fin 80) : (s.roundStep k).rsp = none := rfl
@[simp] theorem State.roundStep_draws (k : Fin 80) : (s.roundStep k).draws = s.draws := rfl

/-! The mix step (R127). -/

@[simp] theorem State.mixStep_h :
    s.mixStep.h = if s.allWritten then mix s.h s.work else freeStateWords s.draws 21 := rfl
@[simp] theorem State.mixStep_m : s.mixStep.m = s.m := rfl
@[simp] theorem State.mixStep_work : s.mixStep.work = freeWork s.draws 0 := rfl
@[simp] theorem State.mixStep_ws : s.mixStep.ws = freeBlockWords s.draws 5 := rfl
@[simp] theorem State.mixStep_t : s.mixStep.t = 0 := rfl
@[simp] theorem State.mixStep_busy : s.mixStep.busy = false := rfl
@[simp] theorem State.mixStep_hWritten :
    s.mixStep.hWritten = if s.allWritten then s.hWritten else Vector.replicate 5 false := rfl
@[simp] theorem State.mixStep_mWritten : s.mixStep.mWritten = s.mWritten := rfl
@[simp] theorem State.mixStep_port : s.mixStep.port = s.port := rfl
@[simp] theorem State.mixStep_rsp : s.mixStep.rsp = some ⟨.ok, 0⟩ := rfl
@[simp] theorem State.mixStep_draws : s.mixStep.draws = s.draws + 1 := rfl

/-! Reset (R180). -/

@[simp] theorem State.applyReset_h : s.applyReset.h = freeStateWords s.draws 0 := rfl
@[simp] theorem State.applyReset_m : s.applyReset.m = freeBlockWords s.draws 5 := rfl
@[simp] theorem State.applyReset_work : s.applyReset.work = freeWork s.draws 21 := rfl
@[simp] theorem State.applyReset_ws : s.applyReset.ws = freeBlockWords s.draws 26 := rfl
@[simp] theorem State.applyReset_t : s.applyReset.t = 0 := rfl
@[simp] theorem State.applyReset_busy : s.applyReset.busy = false := rfl
@[simp] theorem State.applyReset_hWritten : s.applyReset.hWritten = Vector.replicate 5 false := rfl
@[simp] theorem State.applyReset_mWritten : s.applyReset.mWritten = Vector.replicate 16 false := rfl
@[simp] theorem State.applyReset_port : s.applyReset.port = s.port.tail := rfl
@[simp] theorem State.applyReset_rsp : s.applyReset.rsp = none := rfl
@[simp] theorem State.applyReset_draws : s.applyReset.draws = s.draws + 1 := rfl

/-! A word presented to an idle engine (R79). -/

@[simp] theorem State.presentWord_h (cw : CmdWord) : (s.presentWord cw).h = s.h := rfl
@[simp] theorem State.presentWord_m (cw : CmdWord) : (s.presentWord cw).m = s.m := rfl
@[simp] theorem State.presentWord_work (cw : CmdWord) : (s.presentWord cw).work = s.work := rfl
@[simp] theorem State.presentWord_ws (cw : CmdWord) : (s.presentWord cw).ws = s.ws := rfl
@[simp] theorem State.presentWord_t (cw : CmdWord) : (s.presentWord cw).t = 0 := rfl
@[simp] theorem State.presentWord_busy (cw : CmdWord) : (s.presentWord cw).busy = false := rfl
@[simp] theorem State.presentWord_hWritten (cw : CmdWord) : (s.presentWord cw).hWritten = s.hWritten := rfl
@[simp] theorem State.presentWord_mWritten (cw : CmdWord) : (s.presentWord cw).mWritten = s.mWritten := rfl
@[simp] theorem State.presentWord_port (cw : CmdWord) : (s.presentWord cw).port = ⟨false, true, cw⟩ :: s.port := rfl
@[simp] theorem State.presentWord_rsp (cw : CmdWord) : (s.presentWord cw).rsp = s.rsp := rfl
@[simp] theorem State.presentWord_draws (cw : CmdWord) : (s.presentWord cw).draws = s.draws := rfl

/-! The port of an engine that is not ready: only the port itself can move (R79). -/

@[simp] theorem State.holdPins_h : s.holdPins.h = s.h := by unfold State.holdPins; split <;> rfl
@[simp] theorem State.holdPins_m : s.holdPins.m = s.m := by unfold State.holdPins; split <;> rfl
@[simp] theorem State.holdPins_work : s.holdPins.work = s.work := by unfold State.holdPins; split <;> rfl
@[simp] theorem State.holdPins_ws : s.holdPins.ws = s.ws := by unfold State.holdPins; split <;> rfl
@[simp] theorem State.holdPins_t : s.holdPins.t = s.t := by unfold State.holdPins; split <;> rfl
@[simp] theorem State.holdPins_busy : s.holdPins.busy = s.busy := by unfold State.holdPins; split <;> rfl
@[simp] theorem State.holdPins_hWritten : s.holdPins.hWritten = s.hWritten := by unfold State.holdPins; split <;> rfl
@[simp] theorem State.holdPins_mWritten : s.holdPins.mWritten = s.mWritten := by unfold State.holdPins; split <;> rfl
@[simp] theorem State.holdPins_rsp : s.holdPins.rsp = s.rsp := by unfold State.holdPins; split <;> rfl
@[simp] theorem State.holdPins_draws : s.holdPins.draws = s.draws := by unfold State.holdPins; split <;> rfl

theorem State.holdPins_port : s.holdPins.port = if s.pins.cmdValid then s.port else s.port.tail := by
  unfold State.holdPins; split <;> rfl

/-! What the host drives, by the shape of the port. -/

theorem State.pins_of_port_nil (h : s.port = []) : s.pins = Pins.quiet := by unfold State.pins; rw [h]

theorem State.pins_of_port_cons {p : Pins} {rest : List Pins} (h : s.port = p :: rest) : s.pins = p := by
  unfold State.pins; rw [h]

/-! Reads. -/

@[simp] theorem State.readH_eq (i : Fin 5) : s.readH i = s.h[i.val] := rfl

theorem State.allWritten_iff :
    s.allWritten = true ↔ s.hWritten = Vector.replicate 5 true ∧ s.mWritten = Vector.replicate 16 true := by
  simp [State.allWritten]

@[simp] theorem State.cmdReady_eq : s.cmdReady = !s.busy := rfl

end Sys2Proof.Machine
end

