-- ==== Sys2Proof/Laws/Ops.lean ====
section
/-!
SUPPORT. What each shared operation can do, said once: the operand forms, the free words, the sequencer, the meanings, and
the step.
-/

namespace Sys2Proof.Machine

/-! Operand forms. -/

theorem hSpace_of_le {i : Idx} (hi : i.toNat ≤ 4) : hSpace i = some ⟨i.toNat, by omega⟩ := by
  rw [hSpace, dif_pos]

theorem hSpace_of_gt {i : Idx} (hi : 4 < i.toNat) : hSpace i = none := by
  rw [hSpace, dif_neg (by omega)]

@[simp] theorem mSpace_val (j : Idx) : (mSpace j).val = j.toNat := rfl

/-! The meanings. -/

theorem exec_init (s : State) : exec .init s = .next ((s.writeAllH initialState).respond .ok 0) := rfl

theorem exec_ldh_of_le {i : Idx} (hi : i.toNat ≤ 4) (v : Word) (s : State) :
    exec (.ldh i v) s = .next ((s.writeH ⟨i.toNat, by omega⟩ v).respond .ok 0) := by
  simp only [exec, execLdh, hSpace_of_le hi]

theorem exec_ldh_of_gt {i : Idx} (hi : 4 < i.toNat) (v : Word) (s : State) :
    exec (.ldh i v) s = .next s.raiseIllegal := by
  simp only [exec, execLdh, hSpace_of_gt hi]

theorem exec_ldw (j : Idx) (v : Word) (s : State) :
    exec (.ldw j v) s = .next ((s.writeM (mSpace j) v).respond .ok 0) := rfl

theorem exec_compress (s : State) : exec .compress s = .next s.startStep := rfl

theorem exec_rdh_of_le {i : Idx} (hi : i.toNat ≤ 4) (s : State) :
    exec (.rdh i) s = .next (s.respond .ok (s.readH ⟨i.toNat, by omega⟩)) := by
  simp only [exec, execRdh, hSpace_of_le hi]

theorem exec_rdh_of_gt {i : Idx} (hi : 4 < i.toNat) (s : State) : exec (.rdh i) s = .next s.raiseIllegal := by
  simp only [exec, execRdh, hSpace_of_gt hi]

/-- What any accepted command can do: one of the five effects, or IllegalCommand for an index that does not exist. -/
theorem exec_cases (i : Instr) (s : State) :
    (i = .init ∧ exec i s = .next ((s.writeAllH initialState).respond .ok 0))
    ∨ (∃ k v x, i = .ldh x v ∧ x.toNat = k.val ∧ exec i s = .next ((s.writeH k v).respond .ok 0))
    ∨ (∃ j v, i = .ldw j v ∧ exec i s = .next ((s.writeM (mSpace j) v).respond .ok 0))
    ∨ (i = .compress ∧ exec i s = .next s.startStep)
    ∨ (∃ k x, i = .rdh x ∧ x.toNat = k.val ∧ exec i s = .next (s.respond .ok (s.readH k)))
    ∨ (i.wellFormed = false ∧ exec i s = .next s.raiseIllegal) := by
  cases i with
  | init => exact .inl ⟨rfl, rfl⟩
  | ldh x v =>
    by_cases hx : x.toNat ≤ 4
    · exact .inr (.inl ⟨_, v, x, rfl, rfl, exec_ldh_of_le hx v s⟩)
    · exact .inr (.inr (.inr (.inr (.inr ⟨by simp [Instr.wellFormed, hx], exec_ldh_of_gt (by omega) v s⟩))))
  | ldw j v => exact .inr (.inr (.inl ⟨j, v, rfl, rfl⟩))
  | compress => exact .inr (.inr (.inr (.inl ⟨rfl, rfl⟩)))
  | rdh x =>
    by_cases hx : x.toNat ≤ 4
    · exact .inr (.inr (.inr (.inr (.inl ⟨_, x, rfl, rfl, exec_rdh_of_le hx s⟩))))
    · exact .inr (.inr (.inr (.inr (.inr ⟨by simp [Instr.wellFormed, hx], exec_rdh_of_gt (by omega) s⟩))))

/-! The sequencer. -/

theorem sequencerStep_of_lt {s : State} (ht : s.t.toNat < 80) :
    s.sequencerStep = .next (s.roundStep ⟨s.t.toNat, ht⟩) := by
  rw [State.sequencerStep, dif_pos ht]

theorem sequencerStep_of_eq {s : State} (ht : s.t.toNat = 80) : s.sequencerStep = .next s.mixStep := by
  rw [State.sequencerStep, dif_neg (by omega), if_pos ht]

/-- What the sequencer can do, whenever it answers a next state. -/
theorem sequencerStep_cases {s u : State} (h : s.sequencerStep = .next u) :
    (∃ ht : s.t.toNat < 80, u = s.roundStep ⟨s.t.toNat, ht⟩) ∨ (s.t.toNat = 80 ∧ u = s.mixStep) := by
  unfold State.sequencerStep at h
  split at h
  next ht => exact .inl ⟨ht, by simpa using h.symm⟩
  next =>
    split at h
    next ht => exact .inr ⟨ht, by simpa using h.symm⟩
    next => cases h

/-! The step. -/

theorem step_of_rst {s : State} (hr : s.pins.rst = true) : step s = .next s.applyReset := by
  rw [step, State.portStep, if_pos hr]

theorem step_of_busy {s : State} (hr : s.pins.rst = false) (hb : s.busy = true) :
    step s = s.holdPins.sequencerStep := by
  simp [step, State.portStep, hr, hb]

theorem step_of_command {s : State} (hr : s.pins.rst = false) (hb : s.busy = false) (hv : s.pins.cmdValid = true) :
    step s = s.takePins.acceptWord s.pins.cmd := by
  simp [step, State.portStep, hr, hb, hv]

theorem step_of_idle {s : State} (hr : s.pins.rst = false) (hb : s.busy = false) (hv : s.pins.cmdValid = false) :
    step s = .next s.takePins.noResponse := by
  simp [step, State.portStep, hr, hb, hv]

/-- What an accepted word can do: run as a legal command, or take IllegalCommand. -/
theorem acceptWord_cases (s : State) (cw : CmdWord) :
    (∃ i, decode cw = .ok i ∧ s.acceptWord cw = exec i s)
    ∨ (∃ r, decode cw = .error r ∧ s.acceptWord cw = .next s.raiseIllegal) := by
  unfold State.acceptWord
  cases hd : decode cw with
  | ok i => exact .inl ⟨i, rfl, rfl⟩
  | error r => exact .inr ⟨r, rfl, rfl⟩

/-- What a step can do: reset, a micro-step, an accepted word, or nothing. -/
theorem step_cases (s : State) :
    (s.pins.rst = true ∧ step s = .next s.applyReset)
    ∨ (s.pins.rst = false ∧ s.busy = true ∧ step s = s.holdPins.sequencerStep)
    ∨ (s.pins.rst = false ∧ s.busy = false ∧ s.pins.cmdValid = true ∧ step s = s.takePins.acceptWord s.pins.cmd)
    ∨ (s.pins.rst = false ∧ s.busy = false ∧ s.pins.cmdValid = false ∧ step s = .next s.takePins.noResponse) := by
  cases hr : s.pins.rst
  · cases hb : s.busy
    · cases hv : s.pins.cmdValid
      · exact .inr (.inr (.inr ⟨rfl, rfl, rfl, step_of_idle hr hb hv⟩))
      · exact .inr (.inr (.inl ⟨rfl, rfl, rfl, step_of_command hr hb hv⟩))
    · exact .inr (.inl ⟨rfl, rfl, step_of_busy hr hb⟩)
  · exact .inl ⟨rfl, step_of_rst hr⟩

end Sys2Proof.Machine
end

