-- ==== Sys2Proof/Laws/PerInstr.lean ====
section
/-!
SUPPORT. A fact about every command as syntax: its word carries its operation code, its index and its data in the fields of
30_encoding R71.
-/

namespace Sys2Proof.Laws.Fields

/-- The three fields of the word of a command (R71, R74). -/
def Statement (i : Instr) : Prop :=
  opField (encode i) = opcodeOf i ∧ idxField (encode i) = idxOf i ∧ dataField (encode i) = dataOf i

/-- The fields of `{OP, IDX, DATA}` (R71). -/
theorem fields_append (op idx : BitVec 4) (data : Word) :
    opField (op ++ idx ++ data) = op ∧ idxField (op ++ idx ++ data) = idx ∧ dataField (op ++ idx ++ data) = data := by
  refine ⟨?_, ?_, ?_⟩ <;>
    (apply BitVec.eq_of_getLsbD_eq; intro k hk
     simp only [opField, idxField, dataField, BitVec.getLsbD_extractLsb', BitVec.getLsbD_append])
  · have h1 : ¬ 36 + k < 32 := by omega
    have h2 : ¬ 36 + k - 32 < 4 := by omega
    simp [hk, h1, h2, show 36 + k - 32 - 4 = k by omega]
  · have h1 : ¬ 32 + k < 32 := by omega
    simp [hk, h1]
  · simp [hk]

theorem init : Statement .init := fields_append _ _ _

theorem ldh (i : Idx) (v : Word) : Statement (.ldh i v) := fields_append _ _ _

theorem ldw (j : Idx) (v : Word) : Statement (.ldw j v) := fields_append _ _ _

theorem compress : Statement .compress := fields_append _ _ _

theorem rdh (i : Idx) : Statement (.rdh i) := fields_append _ _ _

end Sys2Proof.Laws.Fields
end

