-- ==== Sys2Proof/Laws/Run.lean ====
section
/-!
SUPPORT. Runs of several steps.
-/

namespace Sys2Proof.Machine

/-- `runSteps` is the run of the host's interface. -/
theorem runSteps_eq_run (n : Nat) (s : State) : runSteps n s = Host.Core.run Sys2Proof.core n s := by
  induction n generalizing s with
  | zero => rfl
  | succ n ih =>
    have hstep : Sys2Proof.core.step s = step s := rfl
    simp only [runSteps, Host.Core.run, hstep]
    cases step s with
    | next u => exact ih u
    | fault r => rfl
    | refused r => rfl

theorem runSteps_succ_of_next {n : Nat} {s u : State} (h : step s = .next u) : runSteps (n + 1) s = runSteps n u := by
  rw [runSteps, h]

/-- A run of `a + b` steps is `b` steps after `a`. -/
theorem runSteps_add {a b : Nat} {s u : State} (h : runSteps a s = .next u) : runSteps (a + b) s = runSteps b u := by
  induction a generalizing s with
  | zero => cases h; rw [Nat.zero_add]
  | succ a ih =>
    rw [runSteps] at h
    split at h
    next v hv => rw [Nat.succ_add, runSteps_succ_of_next hv, ih h]
    next => cases h
    next => cases h

/-! The port of a busy engine. -/

/-- One step more of a busy engine's port, at the end. -/
theorem State.heldFor_succ (s : State) (n : Nat) : s.heldFor (n + 1) = (s.heldFor n).holdPins := by
  induction n generalizing s with
  | zero => rfl
  | succ n ih => exact ih s.holdPins

/-- A command at the head of the port stays there, so no later entry is met. -/
theorem State.heldFor_of_cmdValid {s : State} (hv : s.pins.cmdValid = true) (n : Nat) : s.heldFor n = s := by
  induction n with
  | zero => rfl
  | succ n ih => rw [State.heldFor_succ, ih, State.holdPins, if_pos hv]

/-- A port that is used up stays so. -/
theorem State.heldFor_of_port_nil {s : State} (hp : s.port = []) (n : Nat) : (s.heldFor n).port = [] := by
  induction n with
  | zero => exact hp
  | succ n ih => rw [State.heldFor_succ, State.holdPins_port, ih]; split <;> rfl

theorem State.noResetFor_of_cmdValid {s : State} (hr : s.pins.rst = false) (hv : s.pins.cmdValid = true) (n : Nat) :
    s.NoResetFor n := fun k _ => by rw [State.heldFor_of_cmdValid hv, hr]

theorem State.noResetFor_of_port_nil {s : State} (hp : s.port = []) (n : Nat) : s.NoResetFor n := fun k _ => by
  rw [State.pins_of_port_nil _ (State.heldFor_of_port_nil hp k)]; rfl

theorem execAll_cons_of_next {i : Instr} {rest : List Instr} {s u : State} (h : exec i s = .next u) :
    execAll (i :: rest) s = execAll rest u := by
  rw [execAll, h]

end Sys2Proof.Machine
end

