-- ==== Sys2Proof/Tests/Slice0.lean ====
section
/-!
SUPPORT. Tests of one step or one function each, with expected results from spec/95_test_vectors and spec/96_trace_abc, and the
witnesses that the hypotheses of the statements can be met.
-/

namespace Sys2Proof.Tests

open Sys2Proof.Machine

/-! ## Helpers -/

/-- The next state, if there is one. -/
def answer : Host.Outcome State Fault Refusal → Option State
  | .next s => some s
  | .fault _ => none
  | .refused _ => none

/-- The block of "abc" (95 section 1.2, K3). -/
def abcBlock : BlockWords := #v[0x61626380, 0, 0, 0, 0, 0, 0, 0, 0, 0, 0, 0, 0, 0, 0, 0x18]

/-- An idle engine with `H = IV`, `M` the "abc" block and everything written (95 program P1 after command 17). -/
def loaded : State :=
  { State.reset with
    h := initialState
    m := abcBlock
    hWritten := Vector.replicate 5 true
    mWritten := Vector.replicate 16 true }

/-- The loaded engine inside a compression at `T = t`, with the working registers `v`, and `p` on its port. -/
def busyAt (t : BitVec 7) (v : Work) (p : List Pins) : State :=
  { loaded with busy := true, t := t, work := v, ws := abcBlock, port := p }

/-- The loaded engine with one word presented. -/
def presented (cw : CmdWord) : State := loaded.presentWord cw

/-- The working registers after row 79 of 96_trace_abc. -/
def row79 : Work := ⟨0x42541B35, 0x5738D5E1, 0x21834873, 0x681E6DF6, 0xD8FDF6AD⟩

/-! ## WellFormed: a term that each check refuses -/

theorem test_wellFormed_refuses_ldh_index : (Instr.ldh 5 0).wellFormed = false := by decide
theorem test_wellFormed_refuses_rdh_index : (Instr.rdh 5).wellFormed = false := by decide
theorem test_wellFormed_boundary :
    (Instr.ldh 4 0).wellFormed = true ∧ (Instr.rdh 4).wellFormed = true ∧ (Instr.ldw 15 0).wellFormed = true := by decide

/-! ## Decoding, words written out from 30_encoding R74 and 95 section 4 -/

theorem test_decode_init : decode 0b0001000000000000000000000000000000000000 = .ok .init := by decide
theorem test_decode_ldh : decode 0b0010010011000011110100101110000111110000 = .ok (.ldh 4 0xC3D2E1F0) := by decide
theorem test_decode_ldw : decode 0b0011101011111111111111111111111111111111 = .ok (.ldw 10 0xFFFFFFFF) := by decide
theorem test_decode_compress : decode 0b0100000000000000000000000000000000000000 = .ok .compress := by decide
theorem test_decode_rdh : decode 0b0101010000000000000000000000000000000000 = .ok (.rdh 4) := by decide
/-- 95 V4.13 to V4.23. -/
theorem test_decode_illegal :
    [0x0000000000, 0xFFFFFFFFFF, 0x6000000000, 0x1000000001, 0x1100000000, 0x2500000000, 0x2F12345678, 0x4000000001,
      0x4F00000000, 0x5500000000, 0x5300000001].all (fun w => !legalWord (BitVec.ofNat 40 w)) = true := by decide
/-- 95 V4.2, V4.5, V4.6, V4.10. -/
theorem test_encode_words :
    encode (.ldh 0 0) = 0x2000000000 ∧ encode (.ldw 0 0x61626380) = 0x3061626380
    ∧ encode (.ldw 15 0x18) = 0x3F00000018 ∧ encode (.rdh 3) = 0x5300000000 := by decide
theorem test_table_word : decodeTableWord 40 0x2000000000 = some (.ldh 0 0) ∧ decodeTableWord 40 0x6000000000 = none := by
  decide

/-! ## One step per command -/

/-- 95 V4.1: INIT from the reset state, presented as the host presents it. -/
theorem test_step_init :
    (answer (step (State.reset.withFetchWord 40 0x1000000000))).map (fun s => (s.h, s.rsp)) =
      some (#v[0x67452301, 0xEFCDAB89, 0x98BADCFE, 0x10325476, 0xC3D2E1F0], some ⟨.ok, 0⟩) := by decide
/-- 95 V4.4. -/
theorem test_step_ldh :
    (answer (step (presented 0x23FFFFFFFF))).map (fun s => s.h) =
      some #v[0x67452301, 0xEFCDAB89, 0x98BADCFE, 0xFFFFFFFF, 0xC3D2E1F0] := by decide
theorem test_step_ldw :
    (answer (step (presented 0x3AFFFFFFFF))).map (fun s => (s.m[9], s.m[10], s.m[11])) = some (0, 0xFFFFFFFF, 0) := by decide
/-- 95 V4.10: the response word to RDH 3 after INIT. -/
theorem test_step_rdh :
    (answer (step (presented 0x5300000000))).bind (fun s => s.rspWord) = some 0x010325476 := by decide
/-- 42_compress R125: the start step copies `H` and `M`. -/
theorem test_step_compress :
    (answer (step (presented 0x4000000000))).map (fun s => (s.work, s.ws[0], s.ws[15], s.busy, s.rsp)) =
      some (⟨0x67452301, 0xEFCDAB89, 0x98BADCFE, 0x10325476, 0xC3D2E1F0⟩, 0x61626380, 0x18, true, none) := by decide
/-- 95 V4.20: what looks like COMPRESS but is not does not start the sequencer. -/
theorem test_step_illegal :
    (answer (step (presented 0x4000000001))).map (fun s => (s.busy, s.h, s.rspWord)) =
      some (false, initialState, some 0x100000000) := by decide
/-- 96 row 0 and the window at T = 1. -/
theorem test_step_round :
    (answer (step (busyAt 0 (Work.ofState initialState) []))).map (fun s => (s.work, s.ws[0], s.ws[14], s.ws[15], s.t)) =
      some (⟨0x0116FC33, 0x67452301, 0x7BF36AE2, 0x98BADCFE, 0x10325476⟩, 0, 0x18, 0xC2C4C700, 1) := by decide
/-- 96, the mix step of "abc". -/
theorem test_step_mix :
    (answer (step (busyAt 80 row79 []))).map (fun s => (s.h, s.t, s.busy, s.rsp)) =
      some (#v[0xA9993E36, 0x4706816A, 0xBA3E2571, 0x7850C26C, 0x9CD0D89D], 0, false, some ⟨.ok, 0⟩) := by decide
/-- 70_reset R181: reset in the middle, with a command presented at the same edge. -/
theorem test_step_reset :
    (answer (step (busyAt 40 row79 [⟨true, true, 0x1000000000⟩]))).map (fun s => (s.busy, s.t, s.hWritten[0], s.rsp, s.port)) =
      some (false, 0, false, none, []) := by decide
/-- 30_encoding R79: a command presented to a busy engine waits. -/
theorem test_step_holds :
    (answer (step (busyAt 40 row79 [⟨false, true, 0x1000000000⟩]))).map (fun s => (s.h, s.t, s.port)) =
      some (initialState, 41, [⟨false, true, 0x1000000000⟩]) := by decide
/-- The model's only fault (log 4). -/
theorem test_step_counter_out_of_range : answer (step (busyAt 81 row79 [])) = none := by decide

/-! ## Datapath and rounds (95 section 2, 96) -/

/-- 95 V2.15, V2.17. -/
theorem test_rotl :
    rotl 0x12345678 1 = 0x2468ACF0 ∧ rotl 0x12345678 5 = 0x468ACF02 ∧ rotl 0x12345678 30 = 0x048D159E
    ∧ rotl 0xF8000000 30 = 0x3E000000 := by decide
/-- 95 V2.8. -/
theorem test_add32x5 : add32x5 0xE8A4602C 0x98BADCFE 0xC3D2E1F0 0x5A827999 0x61626380 = 0x0116FC33 := by decide
/-- 95 V2.25, V2.26. -/
theorem test_functions :
    fCh 0 0x12345678 0x9ABCDEF0 = 0x9ABCDEF0 ∧ fPar 0 0x12345678 0x9ABCDEF0 = 0x88888888
    ∧ fMaj 0 0x12345678 0x9ABCDEF0 = 0x12345670 ∧ fMaj 0xFFFFFFFF 0x12345678 0x9ABCDEF0 = 0x9ABCDEF8 := by decide
/-- 96 row 20 from row 19: the first parity round. -/
theorem test_round_20 :
    roundOf 20 ⟨0xFD9E1D7D, 0xDC64901D, 0x20AA99CA, 0xD3A49608, 0xC82F758B⟩ 0 =
      ⟨0x1A37B0CA, 0xFD9E1D7D, 0x77192407, 0x20AA99CA, 0xD3A49608⟩ := by decide
/-- 96 row 40 from row 39: the first majority round. -/
theorem test_round_40 :
    roundOf 40 ⟨0x32DE1CBA, 0x4C986405, 0xF718E5CF, 0x03D447F6, 0xF72EEC32⟩ 0xD2E138C4 =
      ⟨0xFC87DEDF, 0x32DE1CBA, 0x53261901, 0xF718E5CF, 0x03D447F6⟩ := by decide
/-- 96 row 60 from row 59: the first round with the last constant. -/
theorem test_round_60 :
    roundOf 60 ⟨0x3F52DE5A, 0x09D785FD, 0x3498BFD4, 0xF211824F, 0xD79915AB⟩ 0x7BA06619 =
      ⟨0xD756C147, 0x3F52DE5A, 0x4275E17F, 0x3498BFD4, 0xF211824F⟩ := by decide
/-- 96: words of the schedule of "abc". -/
theorem test_schedule : schedWord abcBlock 16 = 0xC2C4C700 ∧ schedWord abcBlock 22 = 0x0B131C03 := by decide

/-- 95 V3.3, K3: the digest of "abc". -/
theorem test_compress_abc :
    compress initialState abcBlock = #v[0xA9993E36, 0x4706816A, 0xBA3E2571, 0x7850C26C, 0x9CD0D89D] := by decide +kernel

/-! ## Host procedure (95 sections 1.2 and 5) -/

/-- V5.3: a tail of 55 bytes fits with its length in one block. -/
theorem test_pad_55 :
    (pad (List.replicate 55 0x61) (by decide) ⟨55, by decide⟩).map (fun b => ((packBlock b)[13], (packBlock b)[14], (packBlock b)[15])) =
      [(0x61616180, 0, 0x1B8)] := by decide
/-- V5.4: one byte more takes a second block. -/
theorem test_pad_56 :
    (pad (List.replicate 56 0x61) (by decide) ⟨56, by decide⟩).map (fun b => ((packBlock b)[13], (packBlock b)[14], (packBlock b)[15])) =
      [(0x61616161, 0x80000000, 0), (0, 0, 0x1C0)] := by decide
/-- K3: the one block of "abc". -/
theorem test_blocks_abc : (messageBlocks [0x61, 0x62, 0x63] (by decide)).map packBlock = [abcBlock] := by decide
/-- V5.13, V5.14: the length field. -/
theorem test_length_field :
    lengthByte ⟨2 ^ 61 - 1, by decide⟩ 7 = 0xF8 ∧ lengthByte ⟨2 ^ 29, by decide⟩ 3 = 1
    ∧ lengthByte ⟨2 ^ 29, by decide⟩ 7 = 0 := by decide
/-- R53: digest bytes of `IV`. -/
theorem test_digest_bytes : (digestBytes initialState)[0] = 0x67 ∧ (digestBytes initialState)[19] = 0xF0 := by decide

/-! ## The assembler (30_encoding R83) -/

theorem test_asm_reads : AsmLine.read "LDW 15, 0x00000018 ; last word".toList = some (some (.command (.ldw 15 0x18))) := by
  decide
theorem test_asm_refuses :
    AsmLine.read "LDH 5, 0x00000001".toList = none ∧ AsmLine.read "LDH 4, 0x0001".toList = none := by decide
theorem test_asm_text : (AsmLine.rawWord 0x2500000001).text = ".cw 0x2500000001".toList := by decide

/-! ## Witnesses: the hypotheses of the statements can be met -/

/-- ResetAtAnyMoment, at a busy engine with a command presented. -/
theorem witness_reset : (busyAt 40 row79 [⟨true, true, 0⟩]).pins.rst = true := by decide
/-- DecodeOfEncode, EncodeOfDecode, LegalCommandsRespondOk. -/
theorem witness_legal : (Instr.ldh 4 1).wellFormed = true ∧ Instr.ldh 4 1 ≠ .compress ∧ decode 0x2400000001 = .ok (.ldh 4 1) := by
  decide
/-- StepRunsDecodedCommand and the statements with an accepted word. -/
theorem witness_accepts : (presented 0x3061626380).Accepts 0x3061626380 ∧ decode 0x3061626380 = .ok (.ldw 0 0x61626380) := by
  unfold State.Accepts; decide
/-- IllegalWordTakesException, case (a) at both ends of the unassigned codes. -/
theorem witness_illegal_a :
    (presented 0).Accepts ((0 : BitVec 4) ++ (0 : BitVec 4) ++ (0 : Word))
    ∧ (presented 0x6000000000).Accepts ((6 : BitVec 4) ++ (0 : BitVec 4) ++ (0 : Word))
    ∧ 0x6 ≤ (6 : BitVec 4).toNat ∧ 0x6 ≤ (15 : BitVec 4).toNat := by unfold State.Accepts; decide
/-- Cases (b), (c) and (d) at their boundaries. -/
theorem witness_illegal_bcd :
    (presented 0x1100000000).Accepts ((1 : BitVec 4) ++ (1 : BitVec 4) ++ (0 : Word))
    ∧ (presented 0x4000000001).Accepts ((4 : BitVec 4) ++ (0 : BitVec 4) ++ (1 : Word))
    ∧ (presented 0x2500000000).Accepts ((2 : BitVec 4) ++ (5 : BitVec 4) ++ (0 : Word))
    ∧ (presented 0x5500000000).Accepts ((5 : BitVec 4) ++ (5 : BitVec 4) ++ (0 : Word))
    ∧ (presented 0x5400000001).Accepts ((5 : BitVec 4) ++ (4 : BitVec 4) ++ (1 : Word))
    ∧ 5 ≤ (5 : BitVec 4).toNat ∧ (1 : Word) ≠ 0 := by unfold State.Accepts; decide
/-- IdlePortChangesNothing. -/
theorem witness_idle : loaded.busy = false ∧ loaded.pins.rst = false ∧ loaded.pins.cmdValid = false := by decide
/-- BusyEngineHoldsCommand, in its two cases; RoundStepEffect at T = 79; the mix step of LegalCommandsRespondOk. -/
theorem witness_busy :
    (∀ t ∈ [0, 79, 80], (busyAt t row79 [⟨false, true, 0⟩]).busy = true ∧ (busyAt t row79 [⟨false, true, 0⟩]).t.toNat ≤ 80
      ∧ (busyAt t row79 [⟨false, true, 0⟩]).pins.rst = false ∧ (busyAt t row79 [⟨false, true, 0⟩]).pins.cmdValid = true)
    ∧ (busyAt 79 row79 []).t.toNat < 80 ∧ (busyAt 80 row79 []).t.toNat = 80 := by decide
/-- LdhWritesOneStateWord and RdhRespondsStateWord: the last index that exists and the first that does not. -/
theorem witness_index : (4 : Idx).toNat ≤ 4 ∧ 5 ≤ (5 : Idx).toNat ∧ 5 ≤ (15 : Idx).toNat := by decide
/-- The last clause of RdhRespondsStateWord. -/
theorem witness_init_rdh : ∃ u v, exec .init loaded = .next u ∧ exec (.rdh 3) u = .next v := ⟨_, _, rfl, rfl⟩
/-- RegisterCommandsIdempotent. -/
theorem witness_idempotent : Instr.ldw 3 7 ≠ .compress ∧ ∃ u, exec (.ldw 3 7) loaded = .next u := ⟨by decide, _, rfl⟩
/-- LdstateSetsState and LdblkSetsBlock have none but an INIT that completes. -/
theorem witness_init : ∃ u, exec .init loaded = .next u := ⟨_, rfl⟩
/-- LoadOrderImmaterial, its three clauses. -/
theorem witness_order : (0 : Idx) ≠ 4 ∧ (0 : Idx).toNat ≤ 4 ∧ (4 : Idx).toNat ≤ 4 := by decide
/-- MixStepEffect and MixStepOnUnwrittenInputs: all words written, and one word of `M` missing. -/
theorem witness_mix :
    (busyAt 80 row79 []).allWritten = true ∧ (busyAt 80 row79 []).pins.rst = false
    ∧ ({ busyAt 80 row79 [] with mWritten := (Vector.replicate 16 true).set 15 false }).allWritten = false := by decide
/-- MicroStepsAgreeWithMathematics, CompressAdvancesState and the COMPRESS of LegalCommandsRespondOk: an empty port, one that
begins with a command, and one with idle entries before a command and a reset that waits behind it. -/
theorem witness_noReset :
    loaded.NoResetFor 81 ∧ (presented 0x5000000000).NoResetFor 81
    ∧ State.NoResetFor { loaded with port := [Pins.quiet, Pins.quiet, ⟨false, true, 0x5000000000⟩, ⟨true, false, 0⟩] } 81
    ∧ State.reset.NoResetFor 81 ∧ State.reset.allWritten = false ∧ loaded.allWritten = true := by
  unfold State.NoResetFor; decide +kernel
/-- A reset on the port within the 81 steps is what the hypothesis excludes. -/
theorem test_noReset_refuses : ¬ State.NoResetFor { loaded with port := [Pins.quiet, ⟨true, false, 0⟩] } 81 :=
  fun h => absurd (h 1 (by decide)) (by decide)
/-- CompressIndependentOfHistory: two states with equal `H` and `M` and another past. -/
theorem witness_history :
    ∃ s r : State, s ≠ r ∧ s.h = r.h ∧ s.m = r.m ∧ s.allWritten = true ∧ r.allWritten = true ∧ s.NoResetFor 81 ∧ r.NoResetFor 81 :=
  ⟨loaded, { loaded with rsp := some ⟨.ok, 7⟩ }, fun h => absurd (congrArg State.rsp h) (by decide), rfl, rfl, by decide,
    by decide, State.noResetFor_of_port_nil rfl _, State.noResetFor_of_port_nil rfl _⟩
/-- ScheduleRecurrence: both ranges at their boundaries; the ranges do not meet. -/
theorem witness_schedule : (15 < 16) ∧ (16 ≤ 16 ∧ 16 < 80) ∧ (16 ≤ 79 ∧ 79 < 80) := by decide
/-- RotateLeftMovesBits: the first and the last amount and bit. -/
theorem witness_rotate : (0 < 1 ∧ 1 < 32) ∧ (0 < 31 ∧ 31 < 32) ∧ (rotl 1 31).getLsbD ((0 + 31) % 32) = true := by decide
/-- FiveOperandSum: two lists that are permutations of each other, and a tree over five operands in another order. -/
theorem witness_perm : [(1 : Word), 2].Perm [2, 1]
    ∧ (AddTree.adder (.adder (.operand 5) (.operand 4)) (.adder (.operand 3) (.adder (.operand 1) (.operand 2)))).operands.Perm
        [(1 : Word), 2, 3, 4, 5] := by decide
/-- RoundSelection: each range at both ends. -/
theorem witness_ranges :
    (0 : Fin 80).val ≤ 19 ∧ (19 : Fin 80).val ≤ 19 ∧ 20 ≤ (20 : Fin 80).val ∧ (39 : Fin 80).val ≤ 39
    ∧ 40 ≤ (40 : Fin 80).val ∧ (59 : Fin 80).val ≤ 59 ∧ 60 ≤ (60 : Fin 80).val ∧ 60 ≤ (79 : Fin 80).val := by decide
/-- The invariants hold in the reset state and in the middle of a compression, and each state steps. -/
theorem witness_invariants :
    State.reset.CounterLegal ∧ State.reset.TracksCompress ∧ (∃ u, step State.reset = .next u)
    ∧ loaded.startStep.CounterLegal ∧ loaded.startStep.busy = true ∧ (∃ u, step loaded.startStep = .next u) :=
  ⟨⟨by decide, fun _ => rfl⟩, fun h => absurd h (by decide), ⟨_, rfl⟩, ⟨by decide, fun _ => rfl⟩, rfl, ⟨_, rfl⟩⟩
/-- WindowExtendsPastSchedule: both ends of the late rounds, and the invariant in the middle of a compression. -/
theorem witness_window :
    64 ≤ (busyAt 64 row79 []).t.toNat ∧ 64 ≤ (busyAt 79 row79 []).t.toNat ∧ (busyAt 79 row79 []).t.toNat < 80
    ∧ (busyAt 79 row79 []).busy = true ∧ (busyAt 79 row79 []).pins.rst = false
    ∧ (∀ j : Fin 16, loaded.startStep.ws[j.val] = schedWord loaded.startStep.m (loaded.startStep.t.toNat + j.val)) := by decide
/-- A busy engine that is on the track of a compression. -/
theorem witness_track :
    loaded.startStep.work = rounds loaded.startStep.h loaded.startStep.m loaded.startStep.t.toNat
    ∧ loaded.startStep.ws[15] = schedWord loaded.startStep.m (loaded.startStep.t.toNat + 15) := by decide
/-- The whole-machine statements, one step in each clause: LDW, INIT, LDH, the mix step, COMPRESS, RDH. -/
theorem witness_steps :
    [0x3061626380, 0x1000000000, 0x2400000007, 0x4000000000, 0x5000000000].all
      (fun w => (answer (step (presented (BitVec.ofNat 40 w)))).isSome && !(presented (BitVec.ofNat 40 w)).pins.rst) = true
    ∧ (answer (step (busyAt 80 row79 []))).isSome = true := by decide
/-- SequencerMovesOnlyInCompress. -/
theorem witness_sequencer : (presented 0x4000000000).busy = false ∧ (presented 0x4000000000).pins.rst = false := by decide
/-- CallSequenceReturnsCompress. -/
theorem witness_call : ∃ s : State, s.busy = false
    ∧ s.port = presentAll (ldstate initialState ++ ldblk abcBlock ++ [.compress] ++ rddigest) :=
  ⟨{ loaded with port := presentAll (ldstate initialState ++ ldblk abcBlock ++ [.compress] ++ rddigest) }, rfl, rfl⟩
/-- EnginesDoNotInterfere. -/
theorem witness_engines : (Engines.stepAt [State.reset, presented 0x1000000000] 1).isSome = true := by decide
/-- BlockPackedBigEndian and DigestBytesBigEndian: the last word and the last byte. -/
theorem witness_bytes : (15 < 16) ∧ (63 < 64) ∧ (4 < 5 ∧ 3 < 4) := by decide
/-- MessagePartition: a message with a full block, its last byte, and a tail. -/
theorem witness_partition : 0 < (List.replicate 65 (0x61 : Byte)).length / 64 ∧ 63 < 64 := by decide
/-- PaddingBytes: both cases at the critical boundary; they do not meet. -/
theorem witness_padding :
    (List.replicate 55 (0x61 : Byte)).length ≤ 55 ∧ 56 ≤ (List.replicate 56 (0x61 : Byte)).length
    ∧ (List.replicate 63 (0x61 : Byte)).length < 64 := by decide
/-- MessagePartition, LengthFieldWords, DriverFeedsMessageBlocks and both cases of HashCommandCount. -/
theorem witness_length :
    ([0x61, 0x62, 0x63] : List Byte).length ≤ maxMessageBytes ∧ ∃ msg : List Byte, maxMessageBytes < msg.length :=
  ⟨by decide, List.replicate (2 ^ 61) 0, by rw [List.length_replicate, maxMessageBytes]; omega⟩
/-- HashCommandsReturnDigest: the empty message, which is not too long. -/
theorem witness_hash : ∃ (s : State) (cs : List Instr) (digest : StateWords), s.busy = false ∧ hashCommands [] = some cs
    ∧ messageDigest [] = some digest ∧ s.port = presentAll cs :=
  ⟨{ loaded with port := presentAll ((hashCommands []).getD []) }, (hashCommands []).getD [],
    compressBlocks initialState (messageBlocks [] (by decide)), rfl, rfl, rfl, rfl⟩

end Sys2Proof.Tests
end

section
/-!
PROOFS. Byte order of the message block (20_memory section 2, R52).
-/

namespace Sys2Proof.Machine

/-- The shifted form of R52's packing. -/
theorem packWord_eq_shiftLeft_or (b0 b1 b2 b3 : Byte) :
    packWord b0 b1 b2 b3 =
      (b0.setWidth 32 <<< 24) ||| (b1.setWidth 32 <<< 16) ||| (b2.setWidth 32 <<< 8) ||| b3.setWidth 32 := by
  rw [← BitVec.setWidth_eq (packWord b0 b1 b2 b3)]
  exact BitVec.setWidth_append_append_append_eq_shiftLeft_setWidth_or

/-- Unpacking undoes packing; the four bytes are given as a function so that one statement serves all four places. -/
theorem wordByte_packWord (f : Fin 4 → Byte) (n : Fin 4) : wordByte (packWord (f 0) (f 1) (f 2) (f 3)) n = f n := by
  have above {v start : Nat} {xhi : BitVec v} {xlo : Byte} (h : 8 ≤ start) :
      (xhi ++ xlo).extractLsb' start 8 = xhi.extractLsb' (start - 8) 8 := BitVec.extractLsb'_append_eq_of_le h
  match n with
  | 0 => exact (above (by decide)).trans ((above (by decide)).trans BitVec.extractLsb'_append_eq_left)
  | 1 => exact (above (by decide)).trans ((above (by decide)).trans BitVec.extractLsb'_append_eq_right)
  | 2 => exact (above (by decide)).trans BitVec.extractLsb'_append_eq_right
  | 3 => exact BitVec.extractLsb'_append_eq_right

/-- The equation of `packBlock`, word by word. -/
theorem packBlock_getElem (b : Block) (j : Nat) (hj : j < 16) :
    (packBlock b)[j] = packWord b[4 * j] b[4 * j + 1] b[4 * j + 2] b[4 * j + 3] := by
  simp [packBlock]

/-- The slice form of R52, with word and byte place as separate indices. -/
theorem wordByte_packBlock (b : Block) (j : Nat) (hj : j < 16) (n : Fin 4) :
    wordByte (packBlock b)[j] n = b[4 * j + n.val] := by
  rw [packBlock_getElem]
  exact wordByte_packWord (fun i => b[4 * j + i.val]) n

/-- Settles O50: the words by the shifted form of `packWord`, the bytes by reading byte `k % 4` of word `k / 4`. -/
theorem blockPackedBigEndian : Obligations.BlockPackedBigEndian := by
  intro b
  refine ⟨fun j hj => ?_, fun k hk => ?_⟩
  · rw [packBlock_getElem, packWord_eq_shiftLeft_or]
  · have hbyte := wordByte_packBlock b (k / 4) (by omega) ⟨k % 4, by omega⟩
    simpa only [wordByte, Nat.div_add_mod] using hbyte.symm

end Sys2Proof.Machine
end

section
/-!
PROOFS. The decoder (30_encoding section 5, R81): its equation for each operation code, and R81's chain of cases.
-/

namespace Sys2Proof

open Laws.Fields (fields_append)

/-! One equation per operation code. -/

theorem decode_of_opField_init {cw : CmdWord} (hop : opField cw = 0x1) :
    decode cw = if idxField cw = 0 ∧ dataField cw = 0 then .ok .init else .error .reservedField := by
  simp [decode, hop]

theorem decode_of_opField_ldh {cw : CmdWord} (hop : opField cw = 0x2) :
    decode cw =
      if (idxField cw).toNat ≤ 4 then .ok (.ldh (idxField cw) (dataField cw)) else .error .indexRange := by
  simp [decode, hop]

theorem decode_of_opField_ldw {cw : CmdWord} (hop : opField cw = 0x3) :
    decode cw = .ok (.ldw (idxField cw) (dataField cw)) := by
  simp [decode, hop]

theorem decode_of_opField_compress {cw : CmdWord} (hop : opField cw = 0x4) :
    decode cw = if idxField cw = 0 ∧ dataField cw = 0 then .ok .compress else .error .reservedField := by
  simp [decode, hop]

theorem decode_of_opField_rdh {cw : CmdWord} (hop : opField cw = 0x5) :
    decode cw =
      if (idxField cw).toNat ≤ 4 then
        if dataField cw = 0 then .ok (.rdh (idxField cw)) else .error .reservedField
      else .error .indexRange := by
  simp [decode, hop]

theorem decode_of_opField_unassigned {cw : CmdWord} (h1 : opField cw ≠ 0x1) (h2 : opField cw ≠ 0x2)
    (h3 : opField cw ≠ 0x3) (h4 : opField cw ≠ 0x4) (h5 : opField cw ≠ 0x5) :
    decode cw = .error .unassignedOp := by
  rw [decode, if_neg h1, if_neg h2, if_neg h3, if_neg h4, if_neg h5]

/-- Settles O5: the operation code selects one equation of `decode`, whose checks are those of the chain's one arm for it. -/
theorem decodeFollowsProcedure : Obligations.DecodeFollowsProcedure := by
  intro op idx data
  obtain ⟨hop, hidx, hdata⟩ := fields_append op idx data
  generalize op ++ idx ++ data = cw at hop hidx hdata ⊢
  subst hop hidx hdata
  by_cases h1 : opField cw = 0x1
  · rw [decode_of_opField_init h1, apply_ite Except.toOption]
    simp [h1, Except.toOption]
  by_cases h2 : opField cw = 0x2
  · rw [decode_of_opField_ldh h2, apply_ite Except.toOption]
    simp [h2, Except.toOption]
  by_cases h3 : opField cw = 0x3
  · rw [decode_of_opField_ldw h3]
    simp [h3, Except.toOption]
  by_cases h4 : opField cw = 0x4
  · rw [decode_of_opField_compress h4, apply_ite Except.toOption]
    simp [h4, Except.toOption]
  by_cases h5 : opField cw = 0x5
  · rw [decode_of_opField_rdh h5, apply_ite Except.toOption, apply_ite Except.toOption]
    simp [h5, ite_and, Except.toOption]
  · rw [decode_of_opField_unassigned h1 h2 h3 h4 h5]
    simp only [h1, h2, h3, h4, h5, false_and, if_false, Except.toOption]

end Sys2Proof
end

section
/-!
PROOFS. The adders of the datapath (40_datapath R90, R94): addition modulo 2^32 is the addition of a commutative monoid, so
a sum depends on its operands as a multiset only.
-/

namespace Sys2Proof.Machine

theorem add32_toNat (x y : Word) : (add32 x y).toNat = (x.toNat + y.toNat) % 2 ^ 32 := by
  rw [add32_eq_add, BitVec.toNat_add]

theorem add32_zero (x : Word) : add32 x 0 = x := by
  rw [add32_eq_add, add_zero]

theorem add32_comm (x y : Word) : add32 x y = add32 y x := by
  simp only [add32_eq_add, add_comm]

theorem add32_assoc (x y z : Word) : add32 (add32 x y) z = add32 x (add32 y z) := by
  simp only [add32_eq_add, add_assoc]

theorem add32x5_toNat (p q r s u : Word) :
    (add32x5 p q r s u).toNat = (p.toNat + q.toNat + r.toNat + s.toNat + u.toNat) % 2 ^ 32 :=
  BitVec.toNat_ofNat _ _

theorem add32x5_eq_chain (p q r s u : Word) :
    add32x5 p q r s u = add32 (add32 (add32 (add32 p q) r) s) u := by
  simp only [add32x5_eq_add, add32_eq_add]

theorem add32x5_eq_sum (p q r s u : Word) : add32x5 p q r s u = [p, q, r, s, u].sum := by
  simp [add32x5_eq_add, add_assoc]

/-- A tree of adders computes the library's sum of its operands. -/
theorem AddTree.sum_eq_operands_sum (tree : AddTree) : tree.sum = tree.operands.sum := by
  induction tree with
  | operand x => simp
  | adder l r ihl ihr =>
    rw [AddTree.sum_adder, AddTree.operands_adder, List.sum_append, add32_eq_add, ihl, ihr]

theorem foldl_add32_eq_sum (v : List Word) : v.foldl add32 0 = v.sum := by
  rw [List.sum_eq_foldl]
  exact congrArg (v.foldl · 0) (funext₂ add32_eq_add)

/-- The tree form of R94: order and grouping of the five operands do not matter. -/
theorem AddTree.sum_eq_add32x5 {p q r s u : Word} {tree : AddTree} (h : tree.operands.Perm [p, q, r, s, u]) :
    tree.sum = add32x5 p q r s u := by
  rw [AddTree.sum_eq_operands_sum, h.sum_eq, add32x5_eq_sum]

/-- Settles O34: `add32` is the library's addition of words, and the cases on fixed words are computed. -/
theorem additionWraps : Obligations.AdditionWraps :=
  ⟨add32_toNat, add32_zero, by decide, by decide, by decide, by decide⟩

/-- Settles O36: trees, folds and `add32x5` are all the library's sum of a list of words, which a permutation keeps. -/
theorem fiveOperandSum : Obligations.FiveOperandSum := by
  refine ⟨fun x y z => ⟨add32_assoc x y z, add32_comm x y⟩, fun p q r s u tree => AddTree.sum_eq_add32x5,
    fun p q r s u => ⟨add32x5_toNat p q r s u, add32x5_eq_chain p q r s u, ?_⟩, fun v w h => ?_,
    fun p q r s u => ?_, by decide, by decide⟩
  · simp only [add32x5_eq_chain, add32_assoc]
  · rw [foldl_add32_eq_sum, foldl_add32_eq_sum, h.sum_eq]
  · rw [foldl_add32_eq_sum, add32x5_eq_sum]

end Sys2Proof.Machine
end

section
/-!
PROOFS. Rotation, the three round functions and their selection (40_datapath R91, R95 to R100), bit by bit.
-/

namespace Sys2Proof.Machine

theorem getLsbD_ones {i : Nat} (hi : i < 32) : (0xFFFFFFFF : Word).getLsbD i = true :=
  (BitVec.getLsbD_allOnes (v := 32)).trans (decide_eq_true hi)

theorem getLsbD_not_of_lt (x : Word) {i : Nat} (hi : i < 32) : (~~~x).getLsbD i = !x.getLsbD i := by
  rw [BitVec.getLsbD_not, decide_eq_true hi, Bool.true_and]

/-- Bit `i` goes to bit `(i + n) mod 32` (R91): it stays below the top, or wraps around by 32. -/
theorem rotl_getLsbD (x : Word) (n : Nat) (hn : 0 < n ∧ n < 32) {i : Nat} (hi : i < 32) :
    (rotl x n hn).getLsbD ((i + n) % 32) = x.getLsbD i := by
  rw [rotl_eq_rotateLeft, BitVec.getLsbD_rotateLeft_of_le hn.2]
  rcases Nat.lt_or_ge (i + n) 32 with hlow | hwrap
  · rw [Nat.mod_eq_of_lt hlow]
    simp [hlow]
  · have hmod : (i + n) % 32 = i + n - 32 := by omega
    have hlt : i + n - 32 < n := by omega
    have hsrc : 32 - n + (i + n - 32) = i := by omega
    simp [hmod, hlt, hsrc]

/-- A word of thirty-two equal bits is fixed by every rotation. -/
theorem rotl_eq_self_of_const {x : Word} {v : Bool} (hx : ∀ i < 32, x.getLsbD i = v) (n : Nat) (hn : 0 < n ∧ n < 32) :
    rotl x n hn = x := by
  refine BitVec.eq_of_getLsbD_eq fun j hj => ?_
  have hback : ((j + (32 - n)) % 32 + n) % 32 = j := by omega
  have hmove := rotl_getLsbD x n hn (i := (j + (32 - n)) % 32) (by omega)
  rw [hback, hx _ (by omega)] at hmove
  rw [hmove, hx j hj]

/-- Settles O35: where each bit goes gives the fixed words; the rotate by 30 is the definition with its two shifts swapped. -/
theorem rotateLeftMovesBits : Obligations.RotateLeftMovesBits :=
  ⟨fun x n hn => ⟨rfl, fun i hi => rotl_getLsbD x n hn hi⟩,
    fun n hn => ⟨rotl_eq_self_of_const (v := false) (fun i _ => BitVec.getLsbD_zero) n hn,
      rotl_eq_self_of_const (fun i hi => getLsbD_ones hi) n hn⟩,
    by decide, by decide, by decide, by decide, by decide, fun x => BitVec.or_comm _ _⟩

/-! One row of R99's truth table per function. -/

theorem fCh_getLsbD (b c d : Word) {i : Nat} (hi : i < 32) :
    (fCh b c d).getLsbD i = if b.getLsbD i then c.getLsbD i else d.getLsbD i := by
  rw [fCh, BitVec.getLsbD_or, BitVec.getLsbD_and, BitVec.getLsbD_and, getLsbD_not_of_lt b hi]
  cases b.getLsbD i <;> simp

theorem fPar_getLsbD (b c d : Word) (i : Nat) :
    (fPar b c d).getLsbD i = ((b.getLsbD i != c.getLsbD i) != d.getLsbD i) := by
  simp [fPar]

theorem fMaj_getLsbD (b c d : Word) (i : Nat) :
    (fMaj b c d).getLsbD i =
      decide (2 ≤ (b.getLsbD i).toNat + (c.getLsbD i).toNat + (d.getLsbD i).toNat) := by
  rw [fMaj, BitVec.getLsbD_or, BitVec.getLsbD_or, BitVec.getLsbD_and, BitVec.getLsbD_and, BitVec.getLsbD_and]
  generalize b.getLsbD i = x, c.getLsbD i = y, d.getLsbD i = z
  revert x y z
  decide

/-! Choose (R95). -/

/-- No bit is in both halves of choose: `b` selects one of them. -/
theorem fCh_halves_disjoint (b c d : Word) : (b &&& c) &&& (~~~b &&& d) = 0 := by
  refine BitVec.eq_of_getLsbD_eq fun i hi => ?_
  cases hb : b.getLsbD i <;> simp [hb]

theorem fCh_eq_xor_halves (b c d : Word) : fCh b c d = (b &&& c) ^^^ (~~~b &&& d) := by
  refine BitVec.eq_of_getLsbD_eq fun i hi => ?_
  rw [fCh_getLsbD b c d hi, BitVec.getLsbD_xor, BitVec.getLsbD_and, BitVec.getLsbD_and, getLsbD_not_of_lt b hi]
  cases b.getLsbD i <;> simp

theorem fCh_eq_xor_and_xor (b c d : Word) : fCh b c d = d ^^^ (b &&& (c ^^^ d)) := by
  refine BitVec.eq_of_getLsbD_eq fun i hi => ?_
  rw [fCh_getLsbD b c d hi]
  cases hb : b.getLsbD i
  · simp [hb]
  · simp [hb, Bool.xor_left_comm]

theorem fCh_eq_add_halves (b c d : Word) : fCh b c d = (b &&& c) + (~~~b &&& d) :=
  (BitVec.add_eq_or_of_and_eq_zero _ _ (fCh_halves_disjoint b c d)).symm

theorem fCh_ones (c d : Word) : fCh 0xFFFFFFFF c d = c :=
  BitVec.eq_of_getLsbD_eq fun i hi => by rw [fCh_getLsbD _ c d hi, getLsbD_ones hi, if_pos rfl]

theorem fCh_zero (c d : Word) : fCh 0 c d = d :=
  BitVec.eq_of_getLsbD_eq fun i hi => by simp [fCh_getLsbD _ c d hi]

theorem fCh_self (c d : Word) : fCh c d d = d :=
  BitVec.eq_of_getLsbD_eq fun i hi => by rw [fCh_getLsbD c d d hi, ite_self]

/-! Parity and majority (R96, R98). -/

theorem fPar_self (c d : Word) : fPar c c d = d := by
  rw [fPar, BitVec.xor_self, BitVec.zero_xor]

theorem fMaj_self (c d : Word) : fMaj c c d = c := by
  refine BitVec.eq_of_getLsbD_eq fun i _ => ?_
  cases hc : c.getLsbD i <;> simp [fMaj, hc]

theorem fMaj_eq_and_or (b c d : Word) : fMaj b c d = (b &&& c) ||| (d &&& (b ||| c)) := by
  refine BitVec.eq_of_getLsbD_eq fun i _ => ?_
  cases hd : d.getLsbD i <;> simp [fMaj, hd, Bool.or_assoc]

theorem fMaj_zero (c d : Word) : fMaj 0 c d = c &&& d := by
  simp [fMaj]

theorem fMaj_ones (c d : Word) : fMaj 0xFFFFFFFF c d = c ||| d := by
  refine BitVec.eq_of_getLsbD_eq fun i hi => ?_
  simp only [fMaj, BitVec.getLsbD_or, BitVec.getLsbD_and, getLsbD_ones hi, Bool.true_and]
  cases c.getLsbD i <;> simp

/-- Settles O37: the truth table per function, the forms and corner cases from the bits, the fixed words computed. -/
theorem roundFunctionsTruthTable : Obligations.RoundFunctionsTruthTable :=
  ⟨fun b c d i hi => ⟨fCh_getLsbD b c d hi, fPar_getLsbD b c d i, fMaj_getLsbD b c d i⟩,
    fun b c d => ⟨rfl, fCh_eq_xor_and_xor b c d, fCh_halves_disjoint b c d, fCh_eq_xor_halves b c d,
      fCh_eq_add_halves b c d, rfl, rfl, fMaj_eq_and_or b c d⟩,
    fun c d => ⟨fCh_ones c d, fCh_zero c d, fCh_self c d, fPar_self c d, fMaj_self c d, fMaj_zero c d, fMaj_ones c d⟩,
    by decide, by decide, by decide, by decide, by decide, by decide⟩

/-- Settles O38: each range fixes the answers of the three comparisons that `roundF` and `roundK` make with `t`. -/
theorem roundSelection : Obligations.RoundSelection := by
  intro t b c d
  refine ⟨fun h19 => ?_, fun ⟨h20, h39⟩ => ?_, fun ⟨h40, h59⟩ => ?_, fun h60 => ?_⟩
  · exact ⟨if_pos h19, if_pos h19⟩
  · have h19 : ¬ t.val ≤ 19 := by omega
    simp only [roundF, roundK, h19, h39, if_true, if_false, and_self]
  · have h19 : ¬ t.val ≤ 19 := by omega
    have h39 : ¬ t.val ≤ 39 := by omega
    simp only [roundF, roundK, h19, h39, h59, if_true, if_false, and_self]
  · have h19 : ¬ t.val ≤ 19 := by omega
    have h39 : ¬ t.val ≤ 39 := by omega
    have h59 : ¬ t.val ≤ 59 := by omega
    simp only [roundF, roundK, h19, h39, h59, if_false, and_self]

end Sys2Proof.Machine
end

section
/-!
PROOFS. The decoder undoes the encoder, and so what an engine does with a command presented on its port: the step that
accepts its word executes it (30_encoding R79 to R83), and a list of commands of one step each runs as `execAll` says.
-/

namespace Sys2Proof

theorem decode_encode {i : Instr} (hi : i.wellFormed = true) : decode (encode i) = .ok i := by
  cases i with
  | init =>
    obtain ⟨hop, hidx, hdata⟩ := Laws.Fields.init
    rw [decode_of_opField_init hop, if_pos ⟨hidx, hdata⟩]
  | ldh k v =>
    obtain ⟨hop, hidx, hdata⟩ := Laws.Fields.ldh k v
    have hk : k.toNat ≤ 4 := of_decide_eq_true hi
    rw [decode_of_opField_ldh hop, hidx, hdata]
    exact if_pos hk
  | ldw j v =>
    obtain ⟨hop, hidx, hdata⟩ := Laws.Fields.ldw j v
    rw [decode_of_opField_ldw hop, hidx, hdata]
    rfl
  | compress =>
    obtain ⟨hop, hidx, hdata⟩ := Laws.Fields.compress
    rw [decode_of_opField_compress hop, if_pos ⟨hidx, hdata⟩]
  | rdh k =>
    obtain ⟨hop, hidx, hdata⟩ := Laws.Fields.rdh k
    have hk : k.toNat ≤ 4 := of_decide_eq_true hi
    rw [decode_of_opField_rdh hop, hidx]
    exact (if_pos hk).trans (if_pos hdata)

/-- A legal command that the step accepting it also completes: any but COMPRESS (R60, R114). -/
def Instr.SingleStep (i : Instr) : Prop := i.wellFormed = true ∧ i ≠ .compress

end Sys2Proof

namespace Sys2Proof.Machine

theorem step_of_presented {s : State} {i : Instr} {rest : List Pins} (hi : i.wellFormed = true) (hb : s.busy = false)
    (hp : s.port = ⟨false, true, encode i⟩ :: rest) : step s = exec i { s with port := rest } := by
  have hpins : s.pins = ⟨false, true, encode i⟩ := s.pins_of_port_cons hp
  rw [step_of_command (by rw [hpins]) hb (by rw [hpins]), hpins, State.acceptWord, decode_encode hi]
  simp [State.takePins, hp]

/-- A command other than COMPRESS answers in every state, whatever stands on the port, and neither looks at the port nor
starts the sequencer. -/
theorem exec_ignores_port {i : Instr} (hi : i ≠ .compress) (s : State) :
    ∃ u : State, u.busy = s.busy ∧ ∀ p, exec i { s with port := p } = .next { u with port := p } := by
  cases i with
  | init => exact ⟨(s.writeAllH initialState).respond .ok 0, rfl, fun _ => rfl⟩
  | ldh k v =>
    by_cases hk : k.toNat ≤ 4
    · exact ⟨(s.writeH ⟨k.toNat, by omega⟩ v).respond .ok 0, rfl, fun _ => exec_ldh_of_le hk v _⟩
    · exact ⟨s.raiseIllegal, rfl, fun _ => exec_ldh_of_gt (Nat.lt_of_not_le hk) v _⟩
  | ldw j v => exact ⟨(s.writeM (mSpace j) v).respond .ok 0, rfl, fun _ => rfl⟩
  | compress => exact absurd rfl hi
  | rdh k =>
    by_cases hk : k.toNat ≤ 4
    · exact ⟨s.respond .ok (s.readH ⟨k.toNat, by omega⟩), rfl, fun _ => exec_rdh_of_le hk _⟩
    · exact ⟨s.raiseIllegal, rfl, fun _ => exec_rdh_of_gt (Nat.lt_of_not_le hk) _⟩

theorem presentAll_append (cs ds : List Instr) : presentAll (cs ++ ds) = presentAll cs ++ presentAll ds :=
  List.map_append

/-- An idle engine takes the commands of the port one a step. -/
theorem runSteps_presentAll {cs : List Instr} (hcs : ∀ i ∈ cs, i.SingleStep) {rest : List Pins} {s : State}
    (hb : s.busy = false) (hp : s.port = presentAll cs ++ rest) :
    runSteps cs.length s = execAll cs { s with port := rest } := by
  induction cs generalizing s with
  | nil =>
    obtain rfl : s.port = rest := hp
    rfl
  | cons i cs ih =>
    obtain ⟨⟨hwf, hne⟩, hcs⟩ := List.forall_mem_cons.mp hcs
    obtain ⟨u, hub, hu⟩ := exec_ignores_port hne s
    have hstep : step s = .next { u with port := presentAll cs ++ rest } :=
      (step_of_presented hwf hb hp).trans (hu _)
    have hrun := ih hcs (s := { u with port := presentAll cs ++ rest }) (hub.trans hb) rfl
    rw [List.length_cons, runSteps_succ_of_next hstep, hrun, execAll_cons_of_next (hu rest)]

theorem runSteps_succ_eq_next {n : Nat} {s u v : State} (hrun : runSteps n s = .next u) (hstep : step u = .next v) :
    runSteps (n + 1) s = .next v := by
  rw [runSteps_add hrun, runSteps_succ_of_next hstep, runSteps]

theorem execAll_append {cs ds : List Instr} {s u : State} (h : execAll cs s = .next u) :
    execAll (cs ++ ds) s = execAll ds u := by
  induction cs generalizing s with
  | nil => cases h; rfl
  | cons i cs ih =>
    rw [execAll] at h
    split at h
    next v hv => rw [List.cons_append, execAll_cons_of_next hv, ih h]
    next => cases h
    next => cases h

end Sys2Proof.Machine
end

section
/-!
PROOFS. The command sequences of 30_encoding R84: LDSTATE and LDBLK load all of a register space, RDDIGEST reads it out.
-/

namespace Sys2Proof.Machine

theorem toNat_ofNat_index {n i : Nat} (hn : n ≤ 16) (hi : i < n) : (BitVec.ofNat 4 i).toNat = i := by
  rw [BitVec.toNat_ofNat, Nat.mod_eq_of_lt (by omega)]

theorem exec_ldh_ofNat (i : Fin 5) (v : Word) (s : State) :
    exec (.ldh (BitVec.ofNat 4 i.val) v) s = .next ((s.writeH i v).respond .ok 0) := by
  have hi : (BitVec.ofNat 4 i.val).toNat = i.val := toNat_ofNat_index (by decide) i.isLt
  rw [exec_ldh_of_le (by omega)]
  simp only [hi]

theorem exec_ldw_ofNat (j : Fin 16) (v : Word) (s : State) :
    exec (.ldw (BitVec.ofNat 4 j.val) v) s = .next ((s.writeM j v).respond .ok 0) := by
  have hj : mSpace (BitVec.ofNat 4 j.val) = j := Fin.ext (toNat_ofNat_index (le_refl 16) j.isLt)
  rw [exec_ldw, hj]

theorem exec_rdh_ofNat (i : Fin 5) (s : State) :
    exec (.rdh (BitVec.ofNat 4 i.val)) s = .next (s.respond .ok s.h[i.val]) := by
  have hi : (BitVec.ofNat 4 i.val).toNat = i.val := toNat_ofNat_index (by decide) i.isLt
  rw [exec_rdh_of_le (by omega)]
  simp only [hi, State.readH_eq]

/-- `x` after the words `f i`, for the indices `i` in `l`, were written into it in the order of `l`. -/
def setWords {α : Type} {n : Nat} (f : Fin n → α) (l : List (Fin n)) (x : Vector α n) : Vector α n :=
  l.foldl (fun x i => x.set i.val (f i)) x

theorem setWords_getElem {α : Type} {n : Nat} (f : Fin n → α) (l : List (Fin n)) (x : Vector α n) (i : Fin n) :
    (setWords f l x)[i.val] = if i ∈ l then f i else x[i.val] := by
  induction l generalizing x with
  | nil => rfl
  | cons j l ih =>
    rw [show setWords f (j :: l) x = setWords f l (x.set j.val (f j)) from rfl, ih, Vector.getElem_set]
    by_cases hij : i = j
    · simp [hij]
    · have hval : j.val ≠ i.val := fun h => hij (Fin.ext h.symm)
      simp [hij, hval]

/-- Writing every word leaves nothing of what stood there. -/
theorem setWords_finRange {α : Type} {n : Nat} {f : Fin n → α} {v : Vector α n} (hf : ∀ i : Fin n, f i = v[i.val])
    (x : Vector α n) : setWords f (List.finRange n) x = v :=
  Vector.ext fun i hi => by rw [setWords_getElem f _ x ⟨i, hi⟩, if_pos (List.mem_finRange _), hf]

theorem setWords_finRange_getElem {α : Type} {n : Nat} (v x : Vector α n) :
    setWords (fun i => v[i.val]) (List.finRange n) x = v :=
  setWords_finRange (fun _ => rfl) x

theorem setWords_finRange_const {α : Type} {n : Nat} (a : α) (x : Vector α n) :
    setWords (fun _ => a) (List.finRange n) x = Vector.replicate n a :=
  setWords_finRange (fun i => (Vector.getElem_replicate i.isLt).symm) x

/-- LDH at the indices of a list that has at least the index `i`. -/
theorem execAll_map_ldh (v : StateWords) (i : Fin 5) (l : List (Fin 5)) (s : State) :
    execAll ((i :: l).map fun k => .ldh (BitVec.ofNat 4 k.val) v[k]) s =
      .next { s with
        h := setWords (fun k => v[k.val]) (i :: l) s.h
        hWritten := setWords (fun _ => true) (i :: l) s.hWritten
        rsp := some ⟨.ok, 0⟩ } := by
  induction l generalizing i s with
  | nil => exact execAll_cons_of_next (exec_ldh_ofNat i v[i] s)
  | cons k l ih => exact (execAll_cons_of_next (exec_ldh_ofNat i v[i] s)).trans (ih k _)

/-- LDW at the indices of a list that has at least the index `j`. -/
theorem execAll_map_ldw (v : BlockWords) (j : Fin 16) (l : List (Fin 16)) (s : State) :
    execAll ((j :: l).map fun k => .ldw (BitVec.ofNat 4 k.val) v[k]) s =
      .next { s with
        m := setWords (fun k => v[k.val]) (j :: l) s.m
        mWritten := setWords (fun _ => true) (j :: l) s.mWritten
        rsp := some ⟨.ok, 0⟩ } := by
  induction l generalizing j s with
  | nil => exact execAll_cons_of_next (exec_ldw_ofNat j v[j] s)
  | cons k l ih => exact (execAll_cons_of_next (exec_ldw_ofNat j v[j] s)).trans (ih k _)

theorem execAll_ldstate (v : StateWords) (s : State) :
    execAll (ldstate v) s =
      .next { s with h := v, hWritten := Vector.replicate 5 true, rsp := some ⟨.ok, 0⟩ } := by
  rw [ldstate, indexed, List.ofFn_eq_map, List.finRange_succ, execAll_map_ldh, ← List.finRange_succ,
    setWords_finRange_getElem, setWords_finRange_const]

theorem execAll_ldblk (v : BlockWords) (s : State) :
    execAll (ldblk v) s =
      .next { s with m := v, mWritten := Vector.replicate 16 true, rsp := some ⟨.ok, 0⟩ } := by
  rw [ldblk, indexed, List.ofFn_eq_map, List.finRange_succ, execAll_map_ldw, ← List.finRange_succ,
    setWords_finRange_getElem, setWords_finRange_const]

/-- Reading changes nothing but the response, so the last read is all that shows. -/
theorem execAll_map_rdh (l : List (Fin 5)) (i : Fin 5) (s : State) :
    execAll ((l ++ [i]).map fun k => .rdh (BitVec.ofNat 4 k.val)) s = .next (s.respond .ok s.h[i.val]) := by
  induction l generalizing s with
  | nil => exact execAll_cons_of_next (exec_rdh_ofNat i s)
  | cons k l ih => exact (execAll_cons_of_next (exec_rdh_ofNat k s)).trans (ih _)

theorem execAll_take_rddigest (i : Fin 5) (s : State) :
    execAll (rddigest.take (i.val + 1)) s = .next (s.respond .ok s.h[i.val]) := by
  have hi : i.val < (List.finRange 5).length := by simp
  rw [rddigest, indexed, List.ofFn_eq_map, ← List.map_take, List.take_succ_eq_append_getElem hi,
    List.getElem_finRange]
  exact execAll_map_rdh _ i s

theorem ldstate_singleStep (v : StateWords) : ∀ i ∈ ldstate v, i.SingleStep := by
  intro i hi
  obtain ⟨k, rfl⟩ := List.mem_ofFn.mp hi
  have hk : (BitVec.ofNat 4 k.val).toNat = k.val := toNat_ofNat_index (by decide) k.isLt
  exact ⟨decide_eq_true (by omega), Instr.noConfusion⟩

theorem ldblk_singleStep (v : BlockWords) : ∀ i ∈ ldblk v, i.SingleStep := by
  intro i hi
  obtain ⟨j, rfl⟩ := List.mem_ofFn.mp hi
  exact ⟨rfl, Instr.noConfusion⟩

theorem rddigest_singleStep : ∀ i ∈ rddigest, i.SingleStep := by
  intro i hi
  obtain ⟨k, rfl⟩ := List.mem_ofFn.mp hi
  have hk : (BitVec.ofNat 4 k.val).toNat = k.val := toNat_ofNat_index (by decide) k.isLt
  exact ⟨decide_eq_true (by omega), Instr.noConfusion⟩

@[simp] theorem ldstate_length (v : StateWords) : (ldstate v).length = 5 := List.length_ofFn
@[simp] theorem ldblk_length (v : BlockWords) : (ldblk v).length = 16 := List.length_ofFn
@[simp] theorem rddigest_length : rddigest.length = 5 := List.length_ofFn

end Sys2Proof.Machine
end

section
/-!
PROOFS. The sequencer runs the mathematics (42_compress R124 to R128): the whole state after the start step and `n`
round steps, and after the mix step.
-/

namespace Sys2Proof.Machine

/-- The recurrence of the schedule, extended past word 79 as in R128. -/
theorem schedWord_add_sixteen (m : BlockWords) (n : Nat) :
    schedWord m (n + 16) =
      rotl (schedWord m (n + 13) ^^^ schedWord m (n + 8) ^^^ schedWord m (n + 2) ^^^ schedWord m n) 1 := by
  have hlast : schedWord m (n + 16) =
      rotl ((expand m n)[n + 13] ^^^ (expand m n)[n + 8] ^^^ (expand m n)[n + 2] ^^^ (expand m n)[n]) 1 := by
    rw [← expand_getElem_eq_schedWord m (n + 1) (n + 16) (by omega)]
    simp [expand, Vector.getElem_push, Nat.add_comm]
  simpa only [expand_getElem_eq_schedWord] using hlast

/-- The words `w[n]` to `w[n+15]`, which are the window after `n` rounds (R128). -/
def windowAt (m : BlockWords) (n : Nat) : BlockWords := Vector.ofFn fun j => schedWord m (n + j.val)

theorem windowAt_getElem (m : BlockWords) (n j : Nat) (hj : j < 16) : (windowAt m n)[j] = schedWord m (n + j) := by
  simp [windowAt]

theorem windowAt_zero (m : BlockWords) : windowAt m 0 = m :=
  Vector.ext fun j hj => by
    rw [windowAt_getElem, Nat.zero_add, ← expand_getElem_eq_schedWord m 0 j hj]; rfl

theorem windowShift_windowAt (m : BlockWords) (n : Nat) : windowShift (windowAt m n) = windowAt m (n + 1) := by
  refine Vector.ext fun j hj => ?_
  by_cases hlt : j < 15
  · rw [windowShift_of_lt _ _ hlt, windowAt_getElem, windowAt_getElem, Nat.add_right_comm, Nat.add_assoc]
  · obtain rfl : j = 15 := by omega
    rw [windowShift_last, windowNext, windowAt_getElem m (n + 1)]
    simp only [windowAt_getElem]
    exact (schedWord_add_sixteen m n).symm

theorem rounds_succ (h : StateWords) (m : BlockWords) {n : Nat} (hn : n < 80) :
    rounds h m (n + 1) = roundOf ⟨n, hn⟩ (rounds h m n) (schedWord m n) := by
  rw [rounds, dif_pos hn]

/-- `s` after the start step of a COMPRESS and `n` round steps, as R128 describes it. -/
def State.inRound (s : State) (n : Nat) : State :=
  { s with
    work := rounds s.h s.m n
    ws := windowAt s.m n
    t := BitVec.ofNat 7 n
    busy := true
    rsp := none
    port := (s.heldFor n).port }

@[simp] theorem State.inRound_h (s : State) (n : Nat) : (s.inRound n).h = s.h := rfl
@[simp] theorem State.inRound_m (s : State) (n : Nat) : (s.inRound n).m = s.m := rfl
@[simp] theorem State.inRound_work (s : State) (n : Nat) : (s.inRound n).work = rounds s.h s.m n := rfl
@[simp] theorem State.inRound_busy (s : State) (n : Nat) : (s.inRound n).busy = true := rfl
@[simp] theorem State.inRound_hWritten (s : State) (n : Nat) : (s.inRound n).hWritten = s.hWritten := rfl
@[simp] theorem State.inRound_mWritten (s : State) (n : Nat) : (s.inRound n).mWritten = s.mWritten := rfl
@[simp] theorem State.inRound_pins (s : State) (n : Nat) : (s.inRound n).pins = (s.heldFor n).pins := rfl

theorem State.inRound_zero (s : State) : s.inRound 0 = s.startStep := by
  rw [State.inRound, windowAt_zero]; rfl

theorem State.inRound_t_toNat (s : State) {n : Nat} (hn : n ≤ 80) : (s.inRound n).t.toNat = n :=
  (BitVec.toNat_ofNat n 7).trans (Nat.mod_eq_of_lt (by omega))

theorem State.inRound_holdPins (s : State) (n : Nat) :
    (s.inRound n).holdPins = { s.inRound n with port := (s.heldFor (n + 1)).port } := by
  rw [State.heldFor_succ, State.holdPins, State.holdPins_port, State.inRound_pins]
  split <;> rfl

theorem step_inRound {s : State} {n : Nat} (hn : n < 80) (hr : (s.heldFor n).pins.rst = false) :
    step (s.inRound n) = .next (s.inRound (n + 1)) := by
  have ht : (s.inRound n).holdPins.t.toNat = n := by
    rw [State.holdPins_t, State.inRound_t_toNat s (by omega)]
  have hfin : (⟨(s.inRound n).holdPins.t.toNat, by omega⟩ : Fin 80) = ⟨n, hn⟩ := Fin.ext ht
  have hr' : (s.inRound n).pins.rst = false := by rw [State.inRound_pins, hr]
  rw [step_of_busy hr' (s.inRound_busy n), sequencerStep_of_lt (by omega), hfin, State.inRound_holdPins]
  simp only [State.inRound, State.roundStep, rounds_succ _ _ hn, windowShift_windowAt, windowAt_getElem,
    Nat.add_zero, BitVec.ofNat_add]
  rfl

theorem runSteps_startStep {s : State} {n : Nat} (hn : n ≤ 80) (hr : s.NoResetFor n) :
    runSteps n s.startStep = .next (s.inRound n) := by
  induction n with
  | zero => rw [← State.inRound_zero]; rfl
  | succ n ih =>
    exact runSteps_succ_eq_next (ih (by omega) fun k hk => hr k (by omega)) (step_inRound hn (hr n (by omega)))

theorem step_inRound_last {s : State} {n : Nat} (hn : n = 80) (hr : (s.heldFor n).pins.rst = false) :
    step (s.inRound n) = .next (s.inRound n).holdPins.mixStep := by
  have hr' : (s.inRound n).pins.rst = false := by rw [State.inRound_pins, hr]
  rw [step_of_busy hr' (s.inRound_busy n), sequencerStep_of_eq]
  rw [State.holdPins_t, State.inRound_t_toNat s (by omega), hn]

theorem runSteps_startStep_mixStep {s : State} (hr : s.NoResetFor 81) :
    runSteps 81 s.startStep = .next (s.inRound 80).holdPins.mixStep :=
  runSteps_succ_eq_next (runSteps_startStep (le_refl 80) fun k hk => hr k (by omega))
    (step_inRound_last rfl (hr 80 (by omega)))

theorem State.inRound_allWritten (s : State) (n : Nat) : (s.inRound n).holdPins.allWritten = s.allWritten := by
  simp [State.allWritten]

/-- What a COMPRESS with all its inputs written has done 81 steps after its start step (R120, R129). -/
theorem runSteps_startStep_compress {s : State} (hr : s.NoResetFor 81) (hw : s.allWritten = true) :
    ∃ u, runSteps 81 s.startStep = .next u ∧ u.h = compress s.h s.m ∧ u.m = s.m ∧ u.t = 0 ∧ u.busy = false
      ∧ u.hWritten = s.hWritten ∧ u.mWritten = s.mWritten ∧ u.rsp = some ⟨.ok, 0⟩ ∧ u.port = (s.heldFor 81).port := by
  refine ⟨_, runSteps_startStep_mixStep hr, ?_, ?_, rfl, rfl, ?_, ?_, rfl, ?_⟩
  · rw [State.mixStep_h, if_pos ((s.inRound_allWritten 80).trans hw), State.holdPins_h, State.holdPins_work,
      State.inRound_h, State.inRound_work, compress]
  · rw [State.mixStep_m, State.holdPins_m, State.inRound_m]
  · rw [State.mixStep_hWritten, if_pos ((s.inRound_allWritten 80).trans hw), State.holdPins_hWritten,
      State.inRound_hWritten]
  · rw [State.mixStep_mWritten, State.holdPins_mWritten, State.inRound_mWritten]
  · rw [State.mixStep_port, State.inRound_holdPins]

end Sys2Proof.Machine
end

section
/-!
PROOFS. The call sequence of 41_commands R115.
-/

namespace Sys2Proof.Machine

/-- LDSTATE and LDBLK on the port of an idle engine: 21 steps. -/
theorem runSteps_loads {s : State} {h : StateWords} {m : BlockWords} {rest : List Pins} (hb : s.busy = false)
    (hp : s.port = presentAll (ldstate h ++ ldblk m) ++ rest) :
    ∃ u, runSteps 21 s = .next u ∧ u.h = h ∧ u.m = m ∧ u.allWritten = true ∧ u.busy = false ∧ u.port = rest := by
  have hcs : ∀ i ∈ ldstate h ++ ldblk m, i.SingleStep :=
    List.forall_mem_append.mpr ⟨ldstate_singleStep h, ldblk_singleStep m⟩
  have hlen : (ldstate h ++ ldblk m).length = 21 := by simp
  have hrun := runSteps_presentAll hcs hb hp
  rw [hlen, execAll_append (execAll_ldstate h _), execAll_ldblk] at hrun
  exact ⟨_, hrun, rfl, rfl, (State.allWritten_iff _).mpr ⟨rfl, rfl⟩, hb, rfl⟩

/-- COMPRESS on the port of an idle engine with `H` and `M` written, and a command waiting behind it: 82 steps. -/
theorem runSteps_compress {s : State} {i : Instr} {rest : List Pins} (hb : s.busy = false)
    (hp : s.port = presentAll [.compress, i] ++ rest) (hw : s.allWritten = true) :
    ∃ u, runSteps 82 s = .next u ∧ u.h = compress s.h s.m ∧ u.busy = false ∧ u.port = presentAll [i] ++ rest := by
  have hstart : step s = .next (State.startStep { s with port := presentAll [i] ++ rest }) :=
    step_of_presented rfl hb hp
  have hreset : State.NoResetFor { s with port := presentAll [i] ++ rest } 81 :=
    State.noResetFor_of_cmdValid rfl rfl 81
  obtain ⟨u, hrun, hh, -, -, hbusy, -, -, -, hport⟩ := runSteps_startStep_compress hreset hw
  rw [State.heldFor_of_cmdValid rfl] at hport
  exact ⟨u, (runSteps_succ_of_next hstart).trans hrun, hh, hbusy, hport⟩

/-- RDDIGEST on the port of an idle engine: step `i + 1` gives word `i` of `H`. -/
theorem runSteps_rddigest {s : State} (hb : s.busy = false) (hp : s.port = presentAll rddigest) (i : Fin 5) :
    ∃ u, runSteps (i.val + 1) s = .next u ∧ u.rsp = some ⟨.ok, s.h[i.val]⟩ := by
  have hcs : ∀ c ∈ rddigest.take (i.val + 1), c.SingleStep :=
    fun c hc => rddigest_singleStep c (List.mem_of_mem_take hc)
  have hlen : (rddigest.take (i.val + 1)).length = i.val + 1 := by
    rw [List.length_take, rddigest_length]; omega
  have hsplit : s.port = presentAll (rddigest.take (i.val + 1)) ++ presentAll (rddigest.drop (i.val + 1)) := by
    rw [hp, ← presentAll_append, List.take_append_drop]
  have hrun := (runSteps_presentAll hcs hb hsplit).trans (execAll_take_rddigest i _)
  rw [hlen] at hrun
  exact ⟨_, hrun, rfl⟩

/-- Settles O48: 21 steps load `H` and `M`, 82 compress while the first RDH waits, and `i + 1` read words 0 to `i`. -/
theorem callSequenceReturnsCompress : Obligations.CallSequenceReturnsCompress := by
  intro s h m hb hp i
  have hport : s.port = presentAll (ldstate h ++ ldblk m) ++ presentAll ([.compress] ++ rddigest) := by
    rw [hp, ← presentAll_append, List.append_assoc]
  obtain ⟨u, hload, huh, hum, huw, hub, hup⟩ := runSteps_loads hb hport
  obtain ⟨v, hcompress, hvh, hvb, hvp⟩ := runSteps_compress hub hup huw
  obtain ⟨w, hread, hwr⟩ := runSteps_rddigest hvb hvp i
  refine ⟨w, ?_, by rw [hwr, hvh, huh, hum]⟩
  calc runSteps (104 + i.val) s
      = runSteps (21 + (82 + (i.val + 1))) s := by congr 1; omega
    _ = runSteps (82 + (i.val + 1)) u := runSteps_add hload
    _ = runSteps (i.val + 1) v := runSteps_add hcompress
    _ = .next w := hread

end Sys2Proof.Machine
end

section
/-!
PROOFS. COMPRESS as mathematics (42_compress R121 to R124): the message schedule, the rounds and the mixer.
-/

namespace Sys2Proof.Machine

/-! The words of the schedule. -/

theorem schedule_getElem (m : BlockWords) (i : Nat) (hi : i < 80) : (schedule m)[i] = schedWord m i :=
  expand_getElem_eq_schedWord m 64 i hi

theorem schedWord_of_lt (m : BlockWords) (i : Nat) (hi : i < 16) : schedWord m i = m[i] :=
  (expand_getElem_eq_schedWord m 0 i hi).symm

/-- The recurrence as R121 writes it, looking back from word `i`. -/
theorem schedule_recurrence (m : BlockWords) (i : Nat) (h16 : 16 ≤ i) (hi : i < 80) :
    (schedule m)[i] =
      rotl ((schedule m)[i - 3] ^^^ (schedule m)[i - 8] ^^^ (schedule m)[i - 14] ^^^ (schedule m)[i - 16]) 1 := by
  obtain ⟨n, rfl⟩ := Nat.exists_eq_add_of_le' h16
  simp only [schedule_getElem]
  exact schedWord_add_sixteen m n

/-- Both sides take their bit `(i + n) mod 32` from bit `i`, and every bit position is of that form. -/
theorem rotl_xor (x y : Word) (n : Nat) (hn : 0 < n ∧ n < 32) : rotl (x ^^^ y) n hn = rotl x n hn ^^^ rotl y n hn := by
  refine BitVec.eq_of_getLsbD_eq fun j hj => ?_
  obtain ⟨i, hi, rfl⟩ : ∃ i < 32, (i + n) % 32 = j := ⟨(j + (32 - n)) % 32, by omega, by omega⟩
  rw [BitVec.getLsbD_xor, rotl_getLsbD _ n hn hi, rotl_getLsbD x n hn hi, rotl_getLsbD y n hn hi, BitVec.getLsbD_xor]

/-- What holds of the words of a block, and is kept by exclusive or and by the rotate, holds of the whole schedule. -/
theorem schedWord_induction {P : Word → Prop} {m : BlockWords} (hblock : ∀ (i : Nat) (hi : i < 16), P m[i])
    (hxor : ∀ x y, P x → P y → P (x ^^^ y)) (hrotl : ∀ x, P x → P (rotl x 1)) (i : Nat) : P (schedWord m i) := by
  induction i using Nat.strong_induction_on with
  | _ i ih =>
    rcases Nat.lt_or_ge i 16 with hi | hi
    · rw [schedWord_of_lt m i hi]
      exact hblock i hi
    · obtain ⟨n, rfl⟩ := Nat.exists_eq_add_of_le' hi
      rw [schedWord_add_sixteen]
      exact hrotl _ (hxor _ _ (hxor _ _ (hxor _ _ (ih _ (by omega)) (ih _ (by omega))) (ih _ (by omega)))
        (ih _ (by omega)))

theorem schedWord_zeroBlock (i : Nat) : schedWord (Vector.replicate 16 0) i = 0 := by
  refine schedWord_induction (P := (· = 0)) (fun i hi => Vector.getElem_replicate hi) ?_ ?_ i
  · rintro x y rfl rfl
    decide
  · rintro x rfl
    decide

theorem schedWord_onesBlock (i : Nat) :
    schedWord (Vector.replicate 16 0xFFFFFFFF) i = 0xFFFFFFFF ∨ schedWord (Vector.replicate 16 0xFFFFFFFF) i = 0 := by
  refine schedWord_induction (P := fun w => w = 0xFFFFFFFF ∨ w = 0)
    (fun i hi => .inl (Vector.getElem_replicate hi)) ?_ ?_ i
  · rintro x y (rfl | rfl) (rfl | rfl) <;> decide
  · rintro x (rfl | rfl) <;> decide

/-- Settles O30: the schedule's words are `schedWord`'s; the zero and the all-ones block keep their words in a set that the
recurrence does not leave, and the two words of the "abc" block are computed. -/
theorem scheduleRecurrence : Obligations.ScheduleRecurrence := by
  refine ⟨fun m i hi => ?_, schedule_recurrence, fun x y => rotl_xor x y 1 _, fun i hi => ?_, fun i hi => ?_, ?_, ?_⟩
  · rw [schedule_getElem, schedWord_of_lt m i hi]
  · rw [schedule_getElem, schedWord_zeroBlock]
  · rw [schedule_getElem]
    exact schedWord_onesBlock i
  · rw [schedule_getElem]
    decide
  · rw [schedule_getElem]
    decide

/-- Settles O33: `rounds_succ` says it with `schedWord`, which is the schedule's word for the round numbers 0 to 79. -/
theorem compressionIteratesRounds : Obligations.CompressionIteratesRounds := by
  refine fun h m => ⟨rfl, fun t => ?_, rfl⟩
  rw [rounds_succ h m t.isLt, schedule_getElem]

/-- Settles O31: the five output equations of `roundOf`, and the worked example computed. -/
theorem roundFunctionOutputs : Obligations.RoundFunctionOutputs :=
  ⟨fun t v wt => ⟨roundOf_a t v wt, roundOf_b t v wt, roundOf_c t v wt, roundOf_d t v wt, roundOf_e t v wt⟩, by decide⟩

/-- Settles O32: the equation of `mix`, and the worked example computed. -/
theorem mixerAddsComponents : Obligations.MixerAddsComponents :=
  ⟨fun _ _ => rfl, by decide⟩

end Sys2Proof.Machine
end

section
/-!
PROOFS. The start step and the round step of COMPRESS in any state (42_compress R125, R126).
-/

namespace Sys2Proof.Machine

/-- Settles O23: COMPRESS answers `startStep`, and each clause is one field of it. -/
theorem compressStartStep : Obligations.CompressStartStep :=
  fun s => ⟨s.startStep, exec_compress s, rfl, rfl, rfl, rfl, rfl, fun _ => rfl, s.startStep_t, s.startStep_busy,
    s.startStep_h, s.startStep_m, s.startStep_hWritten, s.startStep_mWritten, s.startStep_rsp, s.startStep_port,
    s.startStep_draws⟩

theorem step_of_busy_of_lt {s : State} (hr : s.pins.rst = false) (hb : s.busy = true) (ht : s.t.toNat < 80) :
    step s = .next (s.holdPins.roundStep ⟨s.t.toNat, ht⟩) := by
  have ht' : s.holdPins.t.toNat < 80 := by rwa [State.holdPins_t]
  rw [step_of_busy hr hb, sequencerStep_of_lt ht']
  simp only [State.holdPins_t]

/-- The counter of a round step does not wrap (R28). -/
theorem State.roundStep_t_toNat {s : State} (k : Fin 80) (ht : s.t.toNat < 80) :
    (s.roundStep k).t.toNat = s.t.toNat + 1 := by
  rw [State.roundStep_t, BitVec.toNat_add_of_lt]
  · rfl
  · exact (Nat.succ_lt_succ ht).trans (by decide)

/-- Settles O24: the step is `roundStep` behind the held port, which touches no register; the window is `windowShift`. -/
theorem roundStepEffect : Obligations.RoundStepEffect := by
  intro s ht hb hr
  refine ⟨_, step_of_busy_of_lt hr hb ht, ?_, fun j hj => ?_, fun _ => ?_, ?_, ?_⟩
  · simp only [State.roundStep_work, State.holdPins_work, State.holdPins_ws]
  · simp only [State.roundStep_ws, State.holdPins_ws, windowShift_of_lt _ j hj]
  · simp only [State.roundStep_ws, State.holdPins_ws, windowShift_last, windowNext]
  · rw [State.roundStep_t_toNat _ (by rwa [State.holdPins_t]), State.holdPins_t]
  · simp

end Sys2Proof.Machine
end

section
/-!
PROOFS. The padding and length encoder (43_host_hash R143 to R145): the bytes of its buffers, which blocks it emits, and the
length field as the exact bit length, byte by byte and as two words.
-/

namespace Sys2Proof.Machine

/-! The padding buffer. -/

theorem padBuffer_of_lt {tail : List Byte} {k : Nat} (hk : k < 64) (h : k < tail.length) :
    (padBuffer tail)[k] = tail[k] := by
  simp [padBuffer, h]

theorem padBuffer_at_length {tail : List Byte} (h : tail.length < 64) : (padBuffer tail)[tail.length] = 0x80 := by
  simp [padBuffer]

theorem padBuffer_of_gt {tail : List Byte} {k : Nat} (hk : k < 64) (h : tail.length < k) : (padBuffer tail)[k] = 0 := by
  simp [padBuffer, Nat.lt_asymm h, Nat.ne_of_gt h]

/-! The length field. -/

theorem withLength_of_lt (buf : Block) (total : ByteCount) {k : Nat} (hk : k < 56) :
    (withLength buf total)[k] = buf[k] := by
  simp [withLength, hk]

theorem withLength_lengthByte (buf : Block) (total : ByteCount) {n : Nat} (hn : n < 8) :
    (withLength buf total)[56 + n] = lengthByte total ⟨n, hn⟩ := by
  simp [withLength]

/-- The slices of the 64-bit length field are digits of the exact bit length, which never wraps (R141). -/
theorem bitLength_extractLsb'_toNat (total : ByteCount) (start len : Nat) :
    ((BitVec.ofNat 64 (8 * total.val)).extractLsb' start len).toNat = 8 * total.val / 2 ^ start % 2 ^ len := by
  have hfits : 8 * total.val < 2 ^ 64 := by omega
  rw [BitVec.extractLsb'_toNat, BitVec.toNat_ofNat, Nat.mod_eq_of_lt hfits, Nat.shiftRight_eq_div_pow]

theorem withLength_lengthByte_toNat (buf : Block) (total : ByteCount) {n : Nat} (hn : n < 8) :
    (withLength buf total)[56 + n].toNat = 8 * total.val / 2 ^ (56 - 8 * n) % 256 := by
  rw [withLength_lengthByte buf total hn]
  exact bitLength_extractLsb'_toNat total _ _

/-- Four adjacent bytes of a bit vector pack to the 32-bit slice they make up. -/
theorem packWord_extractLsb' {w : Nat} (x : BitVec w) (start : Nat) :
    packWord (x.extractLsb' (start + 24) 8) (x.extractLsb' (start + 16) 8) (x.extractLsb' (start + 8) 8)
      (x.extractLsb' start 8) = x.extractLsb' start 32 := by
  rw [packWord, BitVec.extractLsb'_append_extractLsb'_eq_extractLsb' (by omega),
    BitVec.extractLsb'_append_extractLsb'_eq_extractLsb' (by omega),
    BitVec.extractLsb'_append_extractLsb'_eq_extractLsb' (by omega)]

theorem packBlock_getElem_of_bytes {b : Block} {w : Nat} {x : BitVec w} {start j : Nat} (hj : j < 16)
    (hb : ∀ n (hn : n < 4), b[4 * j + n] = x.extractLsb' (start + (24 - 8 * n)) 8) :
    (packBlock b)[j] = x.extractLsb' start 32 := by
  have hb0 : b[4 * j] = x.extractLsb' (start + 24) 8 := hb 0 (by decide)
  rw [packBlock_getElem, hb0, hb 1 (by decide), hb 2 (by decide), hb 3 (by decide)]
  exact packWord_extractLsb' x start

/-- Words 14 and 15 of a block with its length field are the halves of the field, the upper one first. -/
theorem packBlock_withLength (buf : Block) (total : ByteCount) {i : Nat} (hi : i < 2) :
    (packBlock (withLength buf total))[14 + i] =
      (BitVec.ofNat 64 (8 * total.val)).extractLsb' (32 - 32 * i) 32 := by
  refine packBlock_getElem_of_bytes (by omega) fun n hn => ?_
  have hplace : 4 * (14 + i) + n = 56 + (4 * i + n) := by omega
  have hslice : 56 - 8 * (4 * i + n) = 32 - 32 * i + (24 - 8 * n) := by omega
  simp only [hplace, withLength_lengthByte buf total (show 4 * i + n < 8 by omega), lengthByte, hslice]

/-! The blocks emitted: one when the length field still fits behind the tail and the 0x80 byte, two when not (R144). -/

theorem pad_of_le {tail : List Byte} (hr : tail.length < 64) (total : ByteCount) (h : tail.length ≤ 55) :
    pad tail hr total = [withLength (padBuffer tail) total] :=
  if_neg (by omega)

theorem pad_of_ge {tail : List Byte} (hr : tail.length < 64) (total : ByteCount) (h : 56 ≤ tail.length) :
    pad tail hr total = [padBuffer tail, withLength (Vector.replicate 64 0) total] :=
  if_pos (by omega)

theorem pad_length {tail : List Byte} (hr : tail.length < 64) (total : ByteCount) :
    (pad tail hr total).length = if tail.length ≤ 55 then 1 else 2 := by
  split
  next h => rw [pad_of_le hr total h, List.length_singleton]
  next h => rw [pad_of_ge hr total (by omega), List.length_cons, List.length_singleton]

theorem pad_getLast? {tail : List Byte} (hr : tail.length < 64) (total : ByteCount) :
    ∃ buf : Block, (pad tail hr total).getLast? = some (withLength buf total) := by
  rcases Nat.lt_or_ge 55 tail.length with h | h
  · exact ⟨Vector.replicate 64 0, by rw [pad_of_ge hr total h]; rfl⟩
  · exact ⟨padBuffer tail, by rw [pad_of_le hr total h]; rfl⟩

/-- Settles O53: the blocks by `pad_of_le` and `pad_of_ge`, each clause by the rule for its range of bytes. -/
theorem paddingBytes : Obligations.PaddingBytes := by
  refine fun tail hr total => ⟨fun h => ?_, fun h => ?_⟩
  · refine ⟨_, pad_of_le hr total h, fun k hk => ?_, ?_, fun k hk hgt => ?_,
      fun n hn => withLength_lengthByte_toNat _ total hn⟩
    · rw [withLength_of_lt _ _ (by omega), padBuffer_of_lt _ hk]
    · rw [withLength_of_lt _ _ (by omega), padBuffer_at_length hr]
    · rw [withLength_of_lt _ _ hk, padBuffer_of_gt _ hgt]
  · refine ⟨_, _, pad_of_ge hr total h, fun k hk => padBuffer_of_lt _ hk, padBuffer_at_length hr,
      fun k hk hgt => padBuffer_of_gt hk hgt, fun k hk => ?_, fun n hn => withLength_lengthByte_toNat _ total hn⟩
    rw [withLength_of_lt _ _ hk, Vector.getElem_replicate]

end Sys2Proof.Machine
end

section
/-!
PROOFS. The blocks of a message (43_host_hash R142, R145): its full blocks, then the padding blocks of its tail.
-/

namespace Sys2Proof.Machine

theorem tailOf_length (msg : List Byte) : (tailOf msg).length = msg.length % 64 := by
  rw [tailOf, List.length_drop, Nat.mod_eq_sub]

theorem tailOf_getElem? (msg : List Byte) (k : Nat) : (tailOf msg)[k]? = msg[64 * (msg.length / 64) + k]? :=
  List.getElem?_drop

theorem fullBlock_getElem (msg : List Byte) (q : Fin (msg.length / 64)) (k : Nat) (hk : k < 64) :
    msg[64 * q.val + k]? = some (fullBlock msg q)[k] := by
  rw [fullBlock, Vector.getElem_ofFn, List.getElem?_eq_getElem]

section
variable (msg : List Byte) (hm : msg.length ≤ maxMessageBytes)

theorem messageBlocks_getElem?_of_lt {q : Nat} (hq : q < msg.length / 64) :
    (messageBlocks msg hm)[q]? = some (fullBlock msg ⟨q, hq⟩) := by
  rw [messageBlocks, List.getElem?_append_left (by rwa [List.length_ofFn]), List.getElem?_ofFn, dif_pos hq]

theorem messageBlocks_drop :
    (messageBlocks msg hm).drop (msg.length / 64) = pad (tailOf msg) (tailOf_length_lt msg) (byteCount msg hm) :=
  List.drop_left' List.length_ofFn

theorem messageBlocks_length :
    (messageBlocks msg hm).length = msg.length / 64 + if msg.length % 64 ≤ 55 then 1 else 2 := by
  rw [messageBlocks, List.length_append, List.length_ofFn, pad_length, tailOf_length]

theorem messageBlocks_getLast? :
    ∃ buf : Block, (messageBlocks msg hm).getLast? = some (withLength buf (byteCount msg hm)) := by
  obtain ⟨buf, hbuf⟩ := pad_getLast? (tailOf_length_lt msg) (byteCount msg hm)
  exact ⟨buf, by rw [messageBlocks, List.getLast?_append, hbuf, Option.some_or]⟩

end

/-- Settles O52: the full blocks stand before the padding blocks, and the tail starts where they end. -/
theorem messagePartition : Obligations.MessagePartition :=
  fun msg hm => ⟨fun q k hq hk => ⟨_, messageBlocks_getElem?_of_lt msg hm hq, fullBlock_getElem msg ⟨q, hq⟩ k hk⟩,
    messageBlocks_drop msg hm, tailOf_length msg, tailOf_getElem? msg, messageBlocks_length msg hm⟩

/-- Settles O54: the last block carries the length field, whose halves are its words 14 and 15. -/
theorem lengthFieldWords : Obligations.LengthFieldWords := by
  intro msg hm
  obtain ⟨buf, hlast⟩ := messageBlocks_getLast? msg hm
  have hword {i : Nat} (hi : i < 2) : (packBlock (withLength buf (byteCount msg hm)))[14 + i].toNat =
      8 * msg.length / 2 ^ (32 - 32 * i) % 2 ^ 32 := by
    rw [packBlock_withLength buf _ hi]
    exact bitLength_extractLsb'_toNat _ _ _
  refine ⟨_, hlast, (hword (i := 0) (by decide)).trans (Nat.mod_eq_of_lt ?_), (hword (i := 1) (by decide)).trans ?_⟩
  · unfold maxMessageBytes at hm
    omega
  · simp

end Sys2Proof.Machine
end

section
/-!
PROOFS. Words and commands (30_encoding sections 2, 3, 5, 6): encoding after decoding, the illegal words by their fields, the
command words as numbers, and the response word.
-/

namespace Sys2Proof

open Sys2Proof.Machine

/-! A word is its three fields. -/

theorem opField_append_idxField_append_dataField (cw : CmdWord) : opField cw ++ idxField cw ++ dataField cw = cw := by
  rw [opField, idxField, dataField, BitVec.extractLsb'_append_extractLsb'_eq_extractLsb' (by decide),
    BitVec.extractLsb'_append_extractLsb'_eq_extractLsb' (by decide)]
  exact BitVec.extractLsb'_eq_self

theorem encode_eq_of_fields {cw : CmdWord} {i : Instr} (hop : opField cw = opcodeOf i) (hidx : idxField cw = idxOf i)
    (hdata : dataField cw = dataOf i) : encode i = cw := by
  rw [encode, ← hop, ← hidx, ← hdata, opField_append_idxField_append_dataField]

/-- What decoding reads: the fields of the command, and the check that its index exists. -/
theorem decode_eq_ok {cw : CmdWord} {i : Instr} (h : decode cw = .ok i) :
    opField cw = opcodeOf i ∧ idxField cw = idxOf i ∧ dataField cw = dataOf i ∧ i.wellFormed = true := by
  by_cases h1 : opField cw = 0x1
  · rw [decode_of_opField_init h1] at h
    split at h
    next hz => cases h; exact ⟨h1, hz.1, hz.2, rfl⟩
    next => cases h
  by_cases h2 : opField cw = 0x2
  · rw [decode_of_opField_ldh h2] at h
    split at h
    next hi => cases h; exact ⟨h2, rfl, rfl, decide_eq_true hi⟩
    next => cases h
  by_cases h3 : opField cw = 0x3
  · rw [decode_of_opField_ldw h3] at h
    cases h
    exact ⟨h3, rfl, rfl, rfl⟩
  by_cases h4 : opField cw = 0x4
  · rw [decode_of_opField_compress h4] at h
    split at h
    next hz => cases h; exact ⟨h4, hz.1, hz.2, rfl⟩
    next => cases h
  by_cases h5 : opField cw = 0x5
  · rw [decode_of_opField_rdh h5] at h
    split at h
    next hi =>
      split at h
      next hz => cases h; exact ⟨h5, rfl, hz, decide_eq_true hi⟩
      next => cases h
    next => cases h
  · rw [decode_of_opField_unassigned h1 h2 h3 h4 h5] at h
    cases h

theorem encode_of_decode {cw : CmdWord} {i : Instr} (h : decode cw = .ok i) : encode i = cw ∧ i.wellFormed = true := by
  obtain ⟨hop, hidx, hdata, hwf⟩ := decode_eq_ok h
  exact ⟨encode_eq_of_fields hop hidx hdata, hwf⟩

/-- Settles O3, by the five equations of `decode` on the fields of an encoded command. -/
theorem decodeOfEncode : Obligations.DecodeOfEncode :=
  fun _ => decode_encode

/-- Settles O4: the decoder reads the command's fields, and a word is determined by its fields. -/
theorem encodeOfDecode : Obligations.EncodeOfDecode :=
  fun _ _ => encode_of_decode

/-- No legal command but COMPRESS has COMPRESS's word (R74). -/
theorem encode_ne_compress {i : Instr} (hwf : i.wellFormed = true) (hne : i ≠ .compress) :
    encode i ≠ 0x4000000000 := by
  intro h
  have hdecode : decode (encode .compress) = .ok i := by rw [← decode_encode hwf, h]; rfl
  rw [decode_encode (i := .compress) rfl] at hdecode
  exact hne (Except.ok.inj hdecode).symm

/-! The illegal words (R75). -/

theorem legalWord_eq_isSome (cw : CmdWord) : legalWord cw = (decode cw).toOption.isSome := by
  rw [legalWord]
  cases decode cw <;> rfl

theorem exists_decode_eq_error {cw : CmdWord} (h : legalWord cw = false) : ∃ r, decode cw = .error r := by
  rw [legalWord_eq_isSome] at h
  cases hd : decode cw with
  | ok i => rw [hd] at h; cases h
  | error r => exact ⟨r, rfl⟩

/-- The cases (a) to (d) of R75, on the three fields of a word. -/
def IllegalFields (op idx : BitVec 4) (data : Word) : Prop :=
  (op = 0x0 ∨ 0x6 ≤ op.toNat)
    ∨ ((op = 0x1 ∨ op = 0x4) ∧ (idx ≠ 0 ∨ data ≠ 0))
    ∨ (op = 0x2 ∧ 5 ≤ idx.toNat)
    ∨ (op = 0x5 ∧ (5 ≤ idx.toNat ∨ data ≠ 0))

/-- R81's chain gives no command exactly in R75's cases: each operation code leaves one arm of either. -/
theorem legalWord_append_eq_false_iff (op idx : BitVec 4) (data : Word) :
    legalWord (op ++ idx ++ data) = false ↔ IllegalFields op idx data := by
  rw [legalWord_eq_isSome, decodeFollowsProcedure, IllegalFields]
  by_cases h1 : op = 0x1
  · subst h1
    simp [not_and_or, -not_and]
  by_cases h2 : op = 0x2
  · subst h2
    simp [Nat.succ_le_iff]
  by_cases h3 : op = 0x3
  · subst h3
    simp
  by_cases h4 : op = 0x4
  · subst h4
    simp [not_and_or, -not_and]
  by_cases h5 : op = 0x5
  · subst h5
    simp [not_and_or, -not_and, Nat.succ_le_iff]
  · have hop : op = 0x0 ∨ 0x6 ≤ op.toNat := by
      revert op
      decide
    simp only [h1, h2, h3, h4, h5, hop, false_and, if_false, Option.isSome_none, true_or]

/-- Settles O6, by comparing R75's cases with R81's chain; the two words are computed. -/
theorem illegalWordsExactly : Obligations.IllegalWordsExactly :=
  ⟨legalWord_append_eq_false_iff, by decide, by decide⟩

/-! The command words as numbers (R83). -/

theorem append_eq_shiftLeft_or (op idx : BitVec 4) (data : Word) :
    op ++ idx ++ data = (op.setWidth 40 <<< 36 ||| idx.setWidth 40 <<< 32 ||| data.setWidth 40 : CmdWord) := by
  rw [← BitVec.setWidth_eq (op ++ idx ++ data)]
  exact BitVec.setWidth_append_append_eq_shiftLeft_setWidth_or

/-- Settles O7: the three fields shifted to their places and or'ed, with the operation code's term computed. -/
theorem assemblerWordFormulas : Obligations.AssemblerWordFormulas := by
  refine ⟨by decide, by decide, fun i v => ?_, fun j v => ?_, fun i => ?_⟩
  · exact append_eq_shiftLeft_or 0x2 i v
  · exact append_eq_shiftLeft_or 0x3 j v
  · exact (append_eq_shiftLeft_or 0x5 i 0).trans (BitVec.or_zero)

/-- Settles O8: the words are computed. -/
theorem writtenOutWordsDecode : Obligations.WrittenOutWordsDecode := by
  unfold Obligations.WrittenOutWordsDecode
  decide

/-! The response word (R77). -/

theorem Machine.Response.toWord_toNat (r : Response) :
    r.toWord.toNat = (rspCodeBits r.code).toNat * 2 ^ 32 + r.rdata.toNat := by
  rw [Response.toWord, BitVec.toNat_append, ← Nat.shiftLeft_add_eq_or_of_lt r.rdata.isLt, Nat.shiftLeft_eq]

/-- Settles O9: the word is CODE above RDATA, and there are two codes. -/
theorem responseWordLayout : Obligations.ResponseWordLayout := by
  refine ⟨fun r => ⟨?_, ?_, r.toWord_toNat⟩, rfl, rfl, fun c => ?_⟩
  · exact BitVec.extractLsb'_append_eq_right
  · exact BitVec.extractLsb'_append_eq_left
  · cases c <;> decide

end Sys2Proof
end

section
/-!
PROOFS. One step of the engine, said once: every step that answers is one of ten transitions (30_encoding section 4, 42_compress
section 3, 60_exceptions section 1, 70_reset section 1).
-/

namespace Sys2Proof.Machine

/-! An accepted word. -/

theorem step_of_accepts {s : State} {cw : CmdWord} (ha : s.Accepts cw) : step s = s.takePins.acceptWord cw := by
  obtain ⟨hb, hr, hv, hcmd⟩ := ha
  rw [step_of_command hr hb hv, hcmd]

theorem acceptWord_of_decode {cw : CmdWord} {i : Instr} (h : decode cw = .ok i) (s : State) :
    s.acceptWord cw = exec i s := by
  rw [State.acceptWord, h]

theorem acceptWord_of_illegal {cw : CmdWord} (h : legalWord cw = false) (s : State) :
    s.acceptWord cw = .next s.raiseIllegal := by
  obtain ⟨r, hr⟩ := exists_decode_eq_error h
  rw [State.acceptWord, hr]

/-- Settles O10: acceptance hands the word to `acceptWord`, which runs what it decodes to. -/
theorem stepRunsDecodedCommand : Obligations.StepRunsDecodedCommand :=
  fun s _ _ ha hd _ => (step_of_accepts ha).trans (acceptWord_of_decode hd s.takePins)

/-- Settles O11: a word with such fields is illegal, and `raiseIllegal` changes no register. -/
theorem illegalWordTakesException : Obligations.IllegalWordTakesException := by
  intro s op idx data ha hfields
  have hillegal := (legalWord_append_eq_false_iff op idx data).mpr hfields
  have hready : s.takePins.raiseIllegal.cmdReady = true := by
    rw [State.cmdReady_eq, State.raiseIllegal_busy, State.takePins_busy, ha.1, Bool.not_false]
  exact ⟨_, (step_of_accepts ha).trans (acceptWord_of_illegal hillegal _), rfl, hready, rfl, rfl, rfl, rfl, rfl, rfl, rfl,
    rfl, rfl, rfl⟩

/-! A micro-step. -/

theorem step_of_busy_of_eq {s : State} (hr : s.pins.rst = false) (hb : s.busy = true) (ht : s.t.toNat = 80) :
    step s = .next s.holdPins.mixStep := by
  rw [step_of_busy hr hb, sequencerStep_of_eq (by rwa [State.holdPins_t])]

/-- Settles O13: the step is a round step or the mix step behind the held port, and a held port keeps a command. -/
theorem busyEngineHoldsCommand : Obligations.BusyEngineHoldsCommand := by
  intro s hb ht hr hv
  have hport : s.holdPins.port = s.port := by rw [State.holdPins_port, if_pos hv]
  rcases Nat.lt_or_eq_of_le ht with hlt | heq
  · refine ⟨_, step_of_busy_of_lt hr hb hlt, hport, s.holdPins_m, s.holdPins_mWritten, fun _ => ?_, fun h => ?_⟩
    · exact ⟨s.holdPins_busy.trans hb, s.holdPins_h, s.holdPins_hWritten, rfl⟩
    · omega
  · exact ⟨_, step_of_busy_of_eq hr hb heq, hport, s.holdPins_m, s.holdPins_mWritten, fun h => by omega,
      fun _ => ⟨rfl, rfl, rfl⟩⟩

/-! Every step. -/

/-- What one step can make of `s`: a reset, one of the sequencer's two micro-steps, nothing, IllegalCommand, or one of the five
commands, each with the effect it has on the state behind the port entry it used up. -/
inductive Transition (s : State) : State → Prop
  | reset (hr : s.pins.rst = true) : Transition s s.applyReset
  | round (hr : s.pins.rst = false) (hb : s.busy = true) (ht : s.t.toNat < 80) :
      Transition s (s.holdPins.roundStep ⟨s.t.toNat, ht⟩)
  | mix (hr : s.pins.rst = false) (hb : s.busy = true) (ht : s.t.toNat = 80) : Transition s s.holdPins.mixStep
  | idle (hr : s.pins.rst = false) (hb : s.busy = false) (hv : s.pins.cmdValid = false) : Transition s s.takePins.noResponse
  | illegal (cw : CmdWord) (ha : s.Accepts cw) (hcw : legalWord cw = false) : Transition s s.takePins.raiseIllegal
  | init (ha : s.Accepts (encode .init)) : Transition s ((s.takePins.writeAllH initialState).respond .ok 0)
  | ldh (i : Fin 5) (v : Word) (ha : s.Accepts (encode (.ldh (BitVec.ofNat 4 i.val) v))) :
      Transition s ((s.takePins.writeH i v).respond .ok 0)
  | ldw (j : Idx) (v : Word) (ha : s.Accepts (encode (.ldw j v))) :
      Transition s ((s.takePins.writeM (mSpace j) v).respond .ok 0)
  | compress (ha : s.Accepts (encode .compress)) : Transition s s.takePins.startStep
  | rdh (i : Fin 5) (ha : s.Accepts (encode (.rdh (BitVec.ofNat 4 i.val)))) :
      Transition s (s.takePins.respond .ok s.h[i.val])

theorem eq_ofNat_of_toNat_eq {x : Idx} {i : Nat} (h : x.toNat = i) : x = BitVec.ofNat 4 i := by
  rw [← h, BitVec.ofNat_toNat, BitVec.setWidth_eq]

theorem transition_of_exec {s u : State} {i : Instr} (ha : s.Accepts (encode i)) (hwf : i.wellFormed = true)
    (h : exec i s.takePins = .next u) : Transition s u := by
  rcases exec_cases i s.takePins with ⟨rfl, he⟩ | ⟨k, v, x, rfl, hx, he⟩ | ⟨j, v, rfl, he⟩ | ⟨rfl, he⟩ | ⟨k, x, rfl, hx, he⟩ |
    ⟨hill, -⟩
  · cases he.symm.trans h
    exact .init ha
  · cases he.symm.trans h
    rw [eq_ofNat_of_toNat_eq hx] at ha
    exact .ldh k v ha
  · cases he.symm.trans h
    exact .ldw j v ha
  · cases he.symm.trans h
    exact .compress ha
  · cases he.symm.trans h
    rw [eq_ofNat_of_toNat_eq hx] at ha
    exact .rdh k ha
  · rw [hwf] at hill
    cases hill

theorem transition_of_step {s u : State} (h : step s = .next u) : Transition s u := by
  rcases step_cases s with ⟨hr, hs⟩ | ⟨hr, hb, hs⟩ | ⟨hr, hb, hv, hs⟩ | ⟨hr, hb, hv, hs⟩
  · cases hs.symm.trans h
    exact .reset hr
  · rcases sequencerStep_cases (hs.symm.trans h) with ⟨ht, -⟩ | ⟨ht, rfl⟩
    · rw [State.holdPins_t] at ht
      cases (step_of_busy_of_lt hr hb ht).symm.trans h
      exact .round hr hb ht
    · rw [State.holdPins_t] at ht
      exact .mix hr hb ht
  · rcases acceptWord_cases s.takePins s.pins.cmd with ⟨i, hd, he⟩ | ⟨r, hd, he⟩
    · obtain ⟨henc, hwf⟩ := encode_of_decode hd
      exact transition_of_exec ⟨hb, hr, hv, henc.symm⟩ hwf (he.symm.trans (hs.symm.trans h))
    · cases he.symm.trans (hs.symm.trans h)
      exact .illegal s.pins.cmd ⟨hb, hr, hv, rfl⟩ (by rw [legalWord, hd])
  · cases hs.symm.trans h
    exact .idle hr hb hv

/-! When a step answers. -/

theorem exec_answers (i : Instr) (s : State) : ∃ u, exec i s = .next u := by
  rcases exec_cases i s with ⟨-, he⟩ | ⟨_, _, _, -, -, he⟩ | ⟨_, _, -, he⟩ | ⟨-, he⟩ | ⟨_, _, -, -, he⟩ | ⟨-, he⟩ <;>
    exact ⟨_, he⟩

theorem acceptWord_answers (s : State) (cw : CmdWord) : ∃ u, s.acceptWord cw = .next u := by
  rcases acceptWord_cases s cw with ⟨i, -, he⟩ | ⟨r, -, he⟩
  · rw [he]
    exact exec_answers i s
  · exact ⟨_, he⟩

/-- Settles O42: only the sequencer can stop, and it does not while the counter is at most 80. -/
theorem legalStateNeverStops : Obligations.LegalStateNeverStops := by
  rintro s ⟨ht, -⟩
  rcases step_cases s with ⟨-, hs⟩ | ⟨hr, hb, -⟩ | ⟨-, -, -, hs⟩ | ⟨-, -, -, hs⟩
  · exact ⟨_, hs⟩
  · rcases Nat.lt_or_eq_of_le ht with hlt | heq
    · exact ⟨_, step_of_busy_of_lt hr hb hlt⟩
    · exact ⟨_, step_of_busy_of_eq hr hb heq⟩
  · rw [hs]
    exact acceptWord_answers _ _
  · exact ⟨_, hs⟩

/-- Settles O12: the idle step by its equation; an accepted word is one of the six transitions that answer or start. -/
theorem idlePortChangesNothing : Obligations.IdlePortChangesNothing := by
  refine ⟨fun s hb hr hv => step_of_idle hr hb hv, fun s cw ha => ?_⟩
  obtain ⟨hb, hr, hv, -⟩ := ha
  obtain ⟨u, hu⟩ : ∃ u, step s = .next u := by
    rw [step_of_command hr hb hv]
    exact acceptWord_answers _ _
  refine ⟨u, hu, ?_⟩
  cases transition_of_step hu with
  | reset hr' => rw [hr] at hr'; cases hr'
  | round _ hb' => rw [hb] at hb'; cases hb'
  | mix _ hb' => rw [hb] at hb'; cases hb'
  | idle _ _ hv' => rw [hv] at hv'; cases hv'
  | compress => exact .inr rfl
  | illegal | init | ldh | ldw | rdh => exact .inl rfl

/-! Reset (R180, R181). -/

/-- Settles O1: each clause is a field of the reset state. -/
theorem resetLeavesEngineReady : Obligations.ResetLeavesEngineReady :=
  ⟨rfl, rfl, rfl, rfl, rfl, fun i => Vector.getElem_replicate i.isLt, fun j => Vector.getElem_replicate j.isLt⟩

/-- Settles O2: reset wins over everything else in a step, and each clause is a field of `applyReset`. -/
theorem resetAtAnyMoment : Obligations.ResetAtAnyMoment :=
  fun _ hr => ⟨_, step_of_rst hr, rfl, rfl, rfl, rfl, fun i => Vector.getElem_replicate i.isLt,
    fun j => Vector.getElem_replicate j.isLt, rfl⟩

end Sys2Proof.Machine
end

section
/-!
PROOFS. What every step keeps (10_state sections 2 to 4 and 7, 42_compress section 3): the counter, the track of a compression, the
window, and the registers that no transition but the named ones can change.
-/

namespace Sys2Proof.Machine

/-! The counter (R28, R29). -/

/-- A state with the busy bit and the counter of a legal one is legal. -/
theorem State.CounterLegal.of_eq {s u : State} (hs : s.CounterLegal) (hb : u.busy = s.busy) (ht : u.t = s.t) :
    u.CounterLegal := by
  rw [State.CounterLegal, hb, ht]
  exact hs

theorem State.CounterLegal.of_t_eq_zero {u : State} (ht : u.t = 0) : u.CounterLegal := by
  rw [State.CounterLegal, ht]
  exact ⟨by decide, fun _ => rfl⟩

theorem State.holdPins_roundStep_t_toNat {s : State} (k : Fin 80) (ht : s.t.toNat < 80) :
    (s.holdPins.roundStep k).t.toNat = s.t.toNat + 1 := by
  rw [State.roundStep_t_toNat k (by rwa [State.holdPins_t]), State.holdPins_t]

theorem step_keeps_counterLegal {s u : State} (hs : s.CounterLegal) (h : step s = .next u) : u.CounterLegal := by
  cases transition_of_step h with
  | round hr hb ht =>
    have hbusy : (s.holdPins.roundStep ⟨s.t.toNat, ht⟩).busy = true := s.holdPins_busy.trans hb
    refine ⟨?_, fun hidle => absurd (hbusy.symm.trans hidle) (by decide)⟩
    rw [State.holdPins_roundStep_t_toNat _ ht]
    omega
  | reset | mix | compress => exact .of_t_eq_zero rfl
  | idle | illegal | init | ldh | ldw | rdh => exact hs.of_eq rfl rfl

/-- Settles O39, transition by transition. -/
theorem stepKeepsCounterLegal : Obligations.StepKeepsCounterLegal :=
  fun _ _ => step_keeps_counterLegal

/-! The track of a compression (R128). -/

/-- `ws` holds those of `w[t]` to `w[t+15]` that a round consumes. -/
def WindowTracks (ws m : BlockWords) (t : Nat) : Prop :=
  ∀ j : Fin 16, t + j.val < 80 → ws[j.val] = schedWord m (t + j.val)

theorem windowTracks_zero (m : BlockWords) : WindowTracks m m 0 := by
  intro j _
  rw [Nat.zero_add, schedWord_of_lt m j.val j.isLt]

/-- The word shifted in is `w[t+16]`, since the four it is made of are on the track when it is. -/
theorem WindowTracks.windowNext_eq {ws m : BlockWords} {t : Nat} (h : WindowTracks ws m t) (ht : t + 16 < 80) :
    windowNext ws = schedWord m (t + 16) := by
  have hword (j : Nat) (hj : j < 16) : ws[j] = schedWord m (t + j) := h ⟨j, hj⟩ (by omega : t + j < 80)
  have hfirst : ws[0] = schedWord m t := hword 0 (by decide)
  rw [schedWord_add_sixteen, windowNext, hword 13, hword 8, hword 2, hfirst]

theorem WindowTracks.windowShift {ws m : BlockWords} {t : Nat} (h : WindowTracks ws m t) :
    WindowTracks (windowShift ws) m (t + 1) := by
  rintro ⟨j, hj⟩ hlt
  have hplace : t + 1 + j = t + (j + 1) := by omega
  simp only [hplace] at hlt ⊢
  by_cases hj15 : j < 15
  · rw [windowShift_of_lt ws j hj15]
    exact h ⟨j + 1, by omega⟩ hlt
  · obtain rfl : j = 15 := by omega
    rw [windowShift_last, h.windowNext_eq hlt]

theorem tracksCompress_of_idle {s : State} (hb : s.busy = false) : s.TracksCompress :=
  fun hbusy => absurd (hb.symm.trans hbusy) (by decide)

theorem startStep_tracksCompress (s : State) : s.startStep.TracksCompress :=
  fun _ => ⟨rfl, windowTracks_zero s.m⟩

theorem holdPins_roundStep_tracksCompress {s : State} (hb : s.busy = true) (hs : s.TracksCompress)
    (ht : s.t.toNat < 80) : (s.holdPins.roundStep ⟨s.t.toNat, ht⟩).TracksCompress := by
  obtain ⟨hwork, hwindow⟩ := hs hb
  have hfirst : s.ws[0] = schedWord s.m s.t.toNat := hwindow 0 ht
  intro _
  rw [State.holdPins_roundStep_t_toNat _ ht]
  simp only [State.roundStep_h, State.roundStep_m, State.roundStep_work, State.roundStep_ws, State.holdPins_h,
    State.holdPins_m, State.holdPins_work, State.holdPins_ws]
  exact ⟨by rw [rounds_succ _ _ ht, hwork, hfirst], WindowTracks.windowShift hwindow⟩

theorem step_keeps_tracksCompress {s u : State} (hs : s.TracksCompress) (h : step s = .next u) : u.TracksCompress := by
  cases transition_of_step h with
  | round _ hb ht => exact holdPins_roundStep_tracksCompress hb hs ht
  | compress => exact startStep_tracksCompress _
  | reset | mix => exact tracksCompress_of_idle rfl
  | idle _ hb => exact tracksCompress_of_idle hb
  | illegal _ ha | init ha | ldh _ _ ha | ldw _ _ ha | rdh _ ha => exact tracksCompress_of_idle ha.1

/-- Settles O40: the start step sets the track up, a round step moves it on by one word, and every other step ends idle. -/
theorem stepKeepsCompressTrack : Obligations.StepKeepsCompressTrack :=
  fun _ _ hlegal htrack h => ⟨step_keeps_counterLegal hlegal h, step_keeps_tracksCompress htrack h⟩

/-- Settles O41: the reset state is idle with `T = 0`. -/
theorem invariantsHoldAfterReset : Obligations.InvariantsHoldAfterReset :=
  ⟨.of_t_eq_zero rfl, tracksCompress_of_idle rfl⟩

/-! All of the window, on the sequence extended past `w[79]` (R128, log 5). -/

theorem tracksWindow_iff (s : State) : s.TracksWindow ↔ (s.busy = true → s.ws = windowAt s.m s.t.toNat) := by
  refine imp_congr_right fun _ => ⟨fun h => Vector.ext fun j hj => ?_, fun h j => ?_⟩
  · rw [windowAt_getElem, h ⟨j, hj⟩]
  · rw [h, windowAt_getElem]

theorem tracksWindow_of_idle {s : State} (hb : s.busy = false) : s.TracksWindow :=
  fun hbusy => absurd (hb.symm.trans hbusy) (by decide)

theorem startStep_tracksWindow (s : State) : s.startStep.TracksWindow :=
  (tracksWindow_iff _).mpr fun _ => (windowAt_zero s.m).symm

theorem step_keeps_tracksWindow {s u : State} (hs : s.TracksWindow) (h : step s = .next u) : u.TracksWindow := by
  cases transition_of_step h with
  | round _ hb ht =>
    refine (tracksWindow_iff _).mpr fun _ => ?_
    rw [State.holdPins_roundStep_t_toNat _ ht, State.roundStep_ws, State.roundStep_m, State.holdPins_ws, State.holdPins_m,
      (tracksWindow_iff s).mp hs hb, windowShift_windowAt]
  | compress => exact startStep_tracksWindow _
  | reset | mix => exact tracksWindow_of_idle rfl
  | idle _ hb => exact tracksWindow_of_idle hb
  | illegal _ ha | init ha | ldh _ _ ha | ldw _ _ ha | rdh _ ha => exact tracksWindow_of_idle ha.1

/-- Settles O58: the window is `windowAt` after the start step, and `windowShift` takes it to the next one. -/
theorem windowExtendsPastSchedule : Obligations.WindowExtendsPastSchedule := by
  refine ⟨fun s _ ht hb hr => ⟨_, step_of_busy_of_lt hr hb ht, ?_⟩, startStep_tracksWindow,
    fun s u => step_keeps_tracksWindow⟩
  simp only [State.roundStep_ws, State.holdPins_ws, windowShift_last, windowNext]

/-! Who writes which register (R21 to R29, R37). -/

/-- Settles O43: LDW is the only transition without reset that changes `M` or its written bits. -/
theorem blockWrittenOnlyByLdw : Obligations.BlockWrittenOnlyByLdw := by
  intro s u hr h
  cases transition_of_step h with
  | reset hr' => rw [hr] at hr'; cases hr'
  | ldw j v ha => exact .inr ⟨j, v, ha, rfl, rfl⟩
  | round | mix => exact .inl ⟨s.holdPins_m, s.holdPins_mWritten⟩
  | idle | illegal | init | ldh | compress | rdh => exact .inl ⟨rfl, rfl⟩

theorem State.holdPins_allWritten (s : State) : s.holdPins.allWritten = s.allWritten := by
  rw [State.allWritten, State.holdPins_hWritten, State.holdPins_mWritten, State.allWritten]

/-- Settles O44: INIT, LDH and the mix step are the only transitions without reset that change `H` or its written bits. -/
theorem stateWrittenOnlyByInitLdhMix : Obligations.StateWrittenOnlyByInitLdhMix := by
  intro s u hr h
  cases transition_of_step h with
  | reset hr' => rw [hr] at hr'; cases hr'
  | init ha => exact .inr (.inl ⟨ha, rfl⟩)
  | ldh i v ha => exact .inr (.inr (.inl ⟨i, v, ha, rfl⟩))
  | mix _ hb ht =>
    refine .inr (.inr (.inr ⟨hb, ht, fun hw => ?_⟩))
    rw [State.mixStep_h, State.holdPins_allWritten, if_pos hw, State.holdPins_h, State.holdPins_work]
  | round => exact .inl ⟨s.holdPins_h, s.holdPins_hWritten⟩
  | idle | illegal | ldw | compress | rdh => exact .inl ⟨rfl, rfl⟩

/-- Settles O45: of the transitions of an idle engine only COMPRESS moves the sequencer. -/
theorem sequencerMovesOnlyInCompress : Obligations.SequencerMovesOnlyInCompress := by
  intro s u hr hb h
  cases transition_of_step h with
  | reset hr' => rw [hr] at hr'; cases hr'
  | round _ hb' | mix _ hb' => rw [hb] at hb'; cases hb'
  | compress ha => exact .inr ⟨ha, rfl⟩
  | idle | illegal | init | ldh | ldw | rdh => exact .inl ⟨rfl, rfl, rfl, hb⟩

/-- A written bit that is set after `xs[i]` was is bit `i`, or was set before. -/
theorem eq_or_of_set_getElem {n : Nat} {xs : Vector Bool n} {i k : Fin n} (h : (xs.set i.val true)[k.val] = true) :
    i = k ∨ xs[k.val] = true := by
  rw [Vector.getElem_set] at h
  split at h
  next hik => exact .inl (Fin.ext hik)
  next => exact .inr h

theorem hWritten_of_step {s u : State} (hr : s.pins.rst = false) (h : step s = .next u) (k : Fin 5)
    (hk : u.hWritten[k.val] = true) :
    s.hWritten[k.val] = true ∨ s.Accepts (encode .init)
      ∨ ∃ v, s.Accepts (encode (.ldh (BitVec.ofNat 4 k.val) v)) := by
  cases transition_of_step h with
  | reset hr' => rw [hr] at hr'; cases hr'
  | init ha => exact .inr (.inl ha)
  | ldh i v ha =>
    rcases eq_or_of_set_getElem hk with rfl | hk
    · exact .inr (.inr ⟨v, ha⟩)
    · exact .inl hk
  | mix =>
    refine .inl ?_
    rw [State.mixStep_hWritten] at hk
    split at hk
    · rwa [State.holdPins_hWritten] at hk
    · rw [Vector.getElem_replicate] at hk; cases hk
  | round => exact .inl (by rwa [State.roundStep_hWritten, State.holdPins_hWritten] at hk)
  | idle | illegal | ldw | compress | rdh => exact .inl hk

theorem mWritten_of_step {s u : State} (hr : s.pins.rst = false) (h : step s = .next u) (k : Fin 16)
    (hk : u.mWritten[k.val] = true) :
    s.mWritten[k.val] = true ∨ ∃ v, s.Accepts (encode (.ldw (BitVec.ofNat 4 k.val) v)) := by
  cases transition_of_step h with
  | reset hr' => rw [hr] at hr'; cases hr'
  | ldw j v ha =>
    rcases eq_or_of_set_getElem hk with rfl | hk
    · exact .inr ⟨v, by rwa [← eq_ofNat_of_toNat_eq (mSpace_val j).symm]⟩
    · exact .inl hk
  | round => exact .inl (by rwa [State.roundStep_mWritten, State.holdPins_mWritten] at hk)
  | mix => exact .inl (by rwa [State.mixStep_mWritten, State.holdPins_mWritten] at hk)
  | idle | illegal | init | ldh | compress | rdh => exact .inl hk

/-- Settles O46: for `H` and for `M`, by the transition that could have set the bit. -/
theorem writtenBitsFollowWrites : Obligations.WrittenBitsFollowWrites :=
  fun _ _ hr h => ⟨hWritten_of_step hr h, mWritten_of_step hr h⟩

/-! Responses (R77, R79). -/

/-- The two kinds of step that answer: an accepted word other than COMPRESS's, and the mix step. -/
def State.Answers (s : State) : Prop :=
  (s.busy = false ∧ s.pins.cmdValid = true ∧ s.pins.cmd ≠ 0x4000000000) ∨ (s.busy = true ∧ s.t.toNat = 80)

theorem State.Accepts.answers {s : State} {cw : CmdWord} (ha : s.Accepts cw) (hcw : cw ≠ 0x4000000000) : s.Answers := by
  obtain ⟨hb, -, hv, rfl⟩ := ha
  exact .inl ⟨hb, hv, hcw⟩

theorem State.Accepts.not_answers {s : State} (ha : s.Accepts 0x4000000000) : ¬ s.Answers := by
  obtain ⟨hb, -, -, hcmd⟩ := ha
  simp [State.Answers, hb, hcmd]

theorem wellFormed_ldh_ofNat (i : Fin 5) (v : Word) : (Instr.ldh (BitVec.ofNat 4 i.val) v).wellFormed = true :=
  decide_eq_true (by rw [toNat_ofNat_index (by decide) i.isLt]; omega)

theorem wellFormed_rdh_ofNat (i : Fin 5) : (Instr.rdh (BitVec.ofNat 4 i.val)).wellFormed = true :=
  decide_eq_true (by rw [toNat_ofNat_index (by decide) i.isLt]; omega)

/-- Settles O47: each transition gives a response by its last update, and COMPRESS's word is no other command's. -/
theorem oneResponsePerCommand : Obligations.OneResponsePerCommand := by
  intro s u hr h
  show u.rspValid = true ↔ s.Answers
  cases transition_of_step h with
  | reset hr' => rw [hr] at hr'; cases hr'
  | round _ hb ht => exact iff_of_false Bool.false_ne_true (by simp [State.Answers, hb, Nat.ne_of_lt ht])
  | mix _ hb ht => exact iff_of_true rfl (.inr ⟨hb, ht⟩)
  | idle _ hb hv => exact iff_of_false Bool.false_ne_true (by simp [State.Answers, hb, hv])
  | compress ha => exact iff_of_false Bool.false_ne_true ha.not_answers
  | illegal cw ha hcw =>
    refine iff_of_true rfl (ha.answers ?_)
    rintro rfl
    exact absurd hcw (by decide)
  | init ha => exact iff_of_true rfl (ha.answers (by decide))
  | ldw j v ha => exact iff_of_true rfl (ha.answers (encode_ne_compress rfl Instr.noConfusion))
  | ldh i v ha => exact iff_of_true rfl (ha.answers (encode_ne_compress (wellFormed_ldh_ofNat i v) Instr.noConfusion))
  | rdh i ha => exact iff_of_true rfl (ha.answers (encode_ne_compress (wellFormed_rdh_ofNat i) Instr.noConfusion))

/-! Several engines (R66, R170). -/

/-- Settles O49: the step replaces one entry of the list by that engine's own next state. -/
theorem enginesDoNotInterfere : Obligations.EnginesDoNotInterfere := by
  intro es fs k h
  rw [Engines.stepAt] at h
  split at h
  next => cases h
  next s hs =>
    split at h
    next u hu =>
      cases h
      have hk : k < es.length := (List.getElem?_eq_some_iff.mp hs).1
      exact ⟨fun j hj => List.getElem?_set_ne hj.symm, ⟨s, u, hs, hu, List.getElem?_set_self hk⟩, List.length_set⟩
    next => cases h
    next => cases h

end Sys2Proof.Machine
end

section
/-!
PROOFS. The data-movement commands INIT, LDH, LDW and RDH (41_commands, 20_memory section 3, 30_encoding section 6).
-/

namespace Sys2Proof.Machine

/-- Settles O14: INIT answers `writeAllH` with its response, whose fields the clauses are; the RDH reads the third constant. -/
theorem initLoadsInitialState : Obligations.InitLoadsInitialState :=
  fun s => ⟨_, exec_init s, rfl, rfl, rfl, rfl, rfl, rfl, rfl, rfl, rfl, rfl, rfl, rfl, _, exec_rdh_ofNat 2 _, rfl⟩

theorem set_getElem_eq_ite {α : Type} {n i : Nat} (xs : Vector α n) (hi : i < n) (a : α) (k : Fin n) :
    (xs.set i a)[k.val] = if k.val = i then a else xs[k.val] := by
  rw [Vector.getElem_set]
  exact if_congr eq_comm rfl rfl

/-- Settles O15: LDH answers `writeH` with its response, or IllegalCommand where `hSpace` has no such index. -/
theorem ldhWritesOneStateWord : Obligations.LdhWritesOneStateWord := by
  refine ⟨fun s i v hi => ⟨_, exec_ldh_of_le hi v s, fun k => ?_, fun k => ?_, rfl, rfl, rfl, rfl, rfl, rfl, rfl, rfl, rfl⟩,
    fun s i v hi => exec_ldh_of_gt hi v s, by decide⟩
  · exact set_getElem_eq_ite s.h (by omega) v k
  · exact set_getElem_eq_ite s.hWritten (by omega) true k

/-- Settles O16: LDW answers `writeM` with its response; every index names a word of `M`. -/
theorem ldwWritesOneBlockWord : Obligations.LdwWritesOneBlockWord := by
  refine ⟨fun s j v => ⟨_, exec_ldw j v s, fun k => ?_, fun k => ?_, rfl, rfl, rfl, rfl, rfl, rfl, rfl, rfl, rfl⟩,
    by decide, by decide⟩
  · exact set_getElem_eq_ite s.m j.isLt v k
  · exact set_getElem_eq_ite s.mWritten j.isLt true k

/-- Settles O17: RDH answers a response alone, and the words of R75 (d) are illegal. -/
theorem rdhRespondsStateWord : Obligations.RdhRespondsStateWord := by
  refine ⟨fun s i => exec_rdh_ofNat i s, fun s i hi => exec_rdh_of_gt hi s, fun idx data h => ?_, by decide,
    fun s u v hu hv => ?_⟩
  · exact (legalWord_append_eq_false_iff _ _ _).mpr (.inr (.inr (.inr ⟨rfl, h⟩)))
  · cases (exec_init s).symm.trans hu
    cases (exec_rdh_ofNat 3 _).symm.trans hv
    show some (Response.toWord ⟨.ok, initialState[3]⟩) = some 0x010325476
    decide

/-! Idempotence (R58). -/

theorem writeH_respond_idem (s : State) (i : Fin 5) (v d : Word) (c : RspCode) :
    (((s.writeH i v).respond c d).writeH i v).respond c d = (s.writeH i v).respond c d := by
  simp only [State.writeH, State.respond, Vector.set_set]

theorem writeM_respond_idem (s : State) (j : Fin 16) (v d : Word) (c : RspCode) :
    (((s.writeM j v).respond c d).writeM j v).respond c d = (s.writeM j v).respond c d := by
  simp only [State.writeM, State.respond, Vector.set_set]

/-- Settles O19: setting the same word to the same value again changes nothing, and the responses are equal. -/
theorem registerCommandsIdempotent : Obligations.RegisterCommandsIdempotent := by
  intro s u i hne h
  cases i with
  | init => cases (exec_init s).symm.trans h; rfl
  | ldh x v =>
    rcases Nat.lt_or_ge 4 x.toNat with hgt | hle
    · cases (exec_ldh_of_gt hgt v s).symm.trans h
      exact exec_ldh_of_gt hgt v _
    · cases (exec_ldh_of_le hle v s).symm.trans h
      rw [exec_ldh_of_le hle, writeH_respond_idem]
  | ldw j v =>
    cases (exec_ldw j v s).symm.trans h
    rw [exec_ldw, writeM_respond_idem]
  | compress => exact absurd rfl hne
  | rdh x =>
    rcases Nat.lt_or_ge 4 x.toNat with hgt | hle
    · cases (exec_rdh_of_gt hgt s).symm.trans h
      exact exec_rdh_of_gt hgt _
    · cases (exec_rdh_of_le hle s).symm.trans h
      exact exec_rdh_of_le hle _

/-! Sequences of loads (R84, R183). -/

/-- Settles O20: `execAll_ldstate` says it, and INIT has the same effect with the words of `IV`. -/
theorem ldstateSetsState : Obligations.LdstateSetsState :=
  ⟨fun s v => ⟨_, execAll_ldstate v s, rfl⟩, fun s _ h => (execAll_ldstate initialState s).trans h⟩

/-- Settles O21: `execAll_ldblk` says it. -/
theorem ldblkSetsBlock : Obligations.LdblkSetsBlock :=
  fun s v => ⟨_, execAll_ldblk v s, rfl⟩

theorem execAll_pair_of_next {a b : Instr} {s u v : State} (ha : exec a s = .next u) (hb : exec b u = .next v) :
    execAll [a, b] s = .next v :=
  (execAll_cons_of_next ha).trans (execAll_cons_of_next hb)

theorem writeH_comm (s : State) {i k : Fin 5} (hik : i ≠ k) (v w : Word) :
    (s.writeH i v).writeH k w = (s.writeH k w).writeH i v := by
  have hval : i.val ≠ k.val := fun h => hik (Fin.ext h)
  simp only [State.writeH, Vector.set_comm _ _ hval]

theorem writeM_comm (s : State) {j k : Fin 16} (hjk : j ≠ k) (v w : Word) :
    (s.writeM j v).writeM k w = (s.writeM k w).writeM j v := by
  have hval : j.val ≠ k.val := fun h => hjk (Fin.ext h)
  simp only [State.writeM, Vector.set_comm _ _ hval]

/-- Settles O22: writes of different words commute, and each load leaves the same response. -/
theorem loadOrderImmaterial : Obligations.LoadOrderImmaterial := by
  refine ⟨fun s j k v w hjk => ?_, fun s i k v w hik hi hk => ?_, fun s i j v w hi => ?_⟩
  · have hne : mSpace j ≠ mSpace k := fun h => hjk (BitVec.toFin_inj.mp h)
    refine ⟨((s.writeM (mSpace j) v).writeM (mSpace k) w).respond .ok 0,
      execAll_pair_of_next (exec_ldw j v s) (exec_ldw k w _), ?_⟩
    rw [writeM_comm s hne]
    exact execAll_pair_of_next (exec_ldw k w s) (exec_ldw j v _)
  · have hne : (⟨i.toNat, by omega⟩ : Fin 5) ≠ ⟨k.toNat, by omega⟩ :=
      fun h => hik (BitVec.eq_of_toNat_eq (Fin.mk.inj h))
    refine ⟨((s.writeH ⟨i.toNat, by omega⟩ v).writeH ⟨k.toNat, by omega⟩ w).respond .ok 0,
      execAll_pair_of_next (exec_ldh_of_le hi v s) (exec_ldh_of_le hk w _), ?_⟩
    rw [writeH_comm s hne]
    exact execAll_pair_of_next (exec_ldh_of_le hk w s) (exec_ldh_of_le hi v _)
  · exact ⟨((s.writeH ⟨i.toNat, by omega⟩ v).writeM (mSpace j) w).respond .ok 0,
      execAll_pair_of_next (exec_ldh_of_le hi v s) (exec_ldw j w _),
      execAll_pair_of_next (exec_ldw j w s) (exec_ldh_of_le hi v _)⟩

end Sys2Proof.Machine
end

section
/-!
PROOFS. What a whole COMPRESS does in any state (42_compress sections 2 to 4), and that every legal command responds OK
(60_exceptions section 1).
-/

namespace Sys2Proof.Machine

/-! The mix step (R127). -/

/-- Settles O25: the step is `mixStep` behind the held port, and all inputs are written there too. -/
theorem mixStepEffect : Obligations.MixStepEffect := by
  intro s hb ht hr hw
  have hw' : s.holdPins.allWritten = true := s.holdPins_allWritten.trans hw
  have hh : s.holdPins.mixStep.h = mix s.h s.work := by
    rw [State.mixStep_h, if_pos hw', State.holdPins_h, State.holdPins_work]
  have hhw : s.holdPins.mixStep.hWritten = s.hWritten := by
    rw [State.mixStep_hWritten, if_pos hw', State.holdPins_hWritten]
  refine ⟨_, step_of_busy_of_eq hr hb ht, ?_, ?_, ?_, ?_, ?_, rfl, rfl, rfl, s.holdPins_m, hhw, s.holdPins_mWritten⟩ <;>
    rw [hh] <;> rfl

/-- Settles O26: the same step, on the other branch of `mixStep`. -/
theorem mixStepOnUnwrittenInputs : Obligations.MixStepOnUnwrittenInputs := by
  intro s hb ht hr hw
  have hw' : ¬ s.holdPins.allWritten = true := by rw [State.holdPins_allWritten, hw]; decide
  refine ⟨_, step_of_busy_of_eq hr hb ht, rfl, rfl, rfl, fun i => ?_, s.holdPins_m, s.holdPins_mWritten⟩
  simp only [State.mixStep_hWritten, if_neg hw', Vector.getElem_replicate]

/-! From the start step to the mix step (R124 to R129). -/

/-- Settles O27: the states in between are `inRound`, and the mix step ends the compression. -/
theorem microStepsAgreeWithMathematics : Obligations.MicroStepsAgreeWithMathematics := by
  refine fun s hr => ⟨_, exec_compress s, fun t ht => ?_, fun hw => ?_⟩
  · refine ⟨s.inRound t, runSteps_startStep ht fun k hk => hr k (by omega), s.inRound_busy t, s.inRound_t_toNat ht,
      fun j hj hlt => ?_, s.inRound_work t⟩
    rw [schedule_getElem]
    exact windowAt_getElem s.m t j hj
  · obtain ⟨u, hrun, hh, -⟩ := runSteps_startStep_compress hr hw
    exact ⟨u, hrun, hh⟩

/-- Settles O28: the end by `runSteps_startStep_compress`, the states before it by `inRound`. -/
theorem compressAdvancesState : Obligations.CompressAdvancesState := by
  intro s hr hw
  obtain ⟨u, hrun, hh, hm, ht, hb, hhw, hmw, hrsp, hport⟩ := runSteps_startStep_compress hr hw
  refine ⟨_, u, exec_compress s, hrun, hh, hm, ht, hb, hrsp, hhw, hmw, hport, fun k hk => ?_⟩
  exact ⟨s.inRound k, runSteps_startStep hk fun n hn => hr n (by omega), rfl, s.inRound_h k, s.inRound_m k⟩

/-- Settles O29: both runs end with the same function of `H` and `M`. -/
theorem compressIndependentOfHistory : Obligations.CompressIndependentOfHistory := by
  intro s r hh hm hsw hrw hsr hrr
  obtain ⟨u, hrun, huh, hum, -, -, -, -, hursp, -⟩ := runSteps_startStep_compress hsr hsw
  obtain ⟨v, hrunr, hvh, hvm, -, -, -, -, hvrsp, -⟩ := runSteps_startStep_compress hrr hrw
  refine ⟨_, _, u, v, exec_compress s, exec_compress r, hrun, hrunr, ?_, ?_, hursp.trans hvrsp.symm⟩
  · rw [huh, hvh, hh, hm]
  · rw [hum, hvm, hm]

/-! Every legal command (R160). -/

theorem exec_responds_ok (s : State) {i : Instr} (hwf : i.wellFormed = true) (hne : i ≠ .compress) :
    ∃ u d, exec i s = .next u ∧ u.rsp = some ⟨.ok, d⟩ ∧ u.t = s.t ∧ u.busy = s.busy ∧ ((∀ k, i ≠ .rdh k) → d = 0) := by
  rcases exec_cases i s with ⟨-, he⟩ | ⟨_, _, _, -, -, he⟩ | ⟨_, _, -, he⟩ | ⟨rfl, -⟩ | ⟨_, x, rfl, -, he⟩ | ⟨hill, -⟩
  · exact ⟨_, 0, he, rfl, rfl, rfl, fun _ => rfl⟩
  · exact ⟨_, 0, he, rfl, rfl, rfl, fun _ => rfl⟩
  · exact ⟨_, 0, he, rfl, rfl, rfl, fun _ => rfl⟩
  · exact absurd rfl hne
  · exact ⟨_, _, he, rfl, rfl, rfl, fun hk => absurd rfl (hk x)⟩
  · rw [hwf] at hill
    cases hill

/-- Settles O18: the one-step commands by their effects; COMPRESS by the mix step that ends it. -/
theorem legalCommandsRespondOk : Obligations.LegalCommandsRespondOk :=
  ⟨fun s _ hwf hne => exec_responds_ok s hwf hne, fun s => ⟨_, exec_compress s, rfl, rfl⟩,
    fun s hr => ⟨_, _, exec_compress s, runSteps_startStep_mixStep hr, rfl, rfl, rfl⟩,
    fun _ hb ht hr => ⟨_, step_of_busy_of_eq hr hb ht, rfl⟩⟩

end Sys2Proof.Machine
end

section
/-!
PROOFS. The host procedure (43_host_hash section 3, 20_memory section 2): the bytes of a digest, the driver's moves, its commands and
what they return.
-/

namespace Sys2Proof.Machine

/-! The bytes of a digest (R53). -/

theorem digestBytes_getElem (h : StateWords) {i n : Nat} (hi : i < 5) (hn : n < 4) :
    (digestBytes h)[4 * i + n] = h[i].extractLsb' (24 - 8 * n) 8 := by
  have hdiv : (4 * i + n) / 4 = i := by omega
  have hmod : (4 * i + n) % 4 = n := by omega
  simp only [digestBytes, Vector.getElem_ofFn, wordByte, hdiv, hmod]

/-- Settles O51: the bytes by index, and four adjacent slices pack to the whole word. -/
theorem digestBytesBigEndian : Obligations.DigestBytesBigEndian := by
  refine fun h => ⟨fun i n hi hn => digestBytes_getElem h hi hn, fun i hi => ?_⟩
  have h0 : (digestBytes h)[4 * i] = h[i].extractLsb' 24 8 := digestBytes_getElem h (n := 0) hi (by decide)
  rw [h0, digestBytes_getElem h hi (by decide : 1 < 4), digestBytes_getElem h hi (by decide : 2 < 4),
    digestBytes_getElem h hi (by decide : 3 < 4)]
  exact (packWord_extractLsb' h[i] 0).trans BitVec.extractLsb'_eq_self

/-! The driver (R147). -/

theorem Driver.moves_add (d : Driver) (a b : Nat) : d.moves (a + b) = (d.moves a).moves b := by
  induction a generalizing d with
  | zero => rw [Nat.zero_add]; rfl
  | succ a ih => rw [Nat.succ_add]; exact ih d.move

theorem Driver.moves_of_done {d : Driver} (hd : d.phase = .done) (n : Nat) : d.moves n = d := by
  induction n with
  | zero => rfl
  | succ n ih =>
    have hmove : d.move = d := by rw [Driver.move, hd]
    rw [Driver.moves, hmove, ih]

section
variable (msg : List Byte) (hm : msg.length ≤ maxMessageBytes)

/-- The driver after it has fed the first `q` full blocks. -/
def Driver.afterBlocks (q : Nat) : Driver :=
  ⟨.readingBlocks, msg.drop (64 * q), byteCount msg hm, (List.ofFn fun i => fullBlock msg i).take q⟩

/-- The driver when it has fed everything. -/
def Driver.finished : Driver :=
  ⟨.done, [], byteCount msg hm, messageBlocks msg hm⟩

theorem firstBlock_drop (q : Fin (msg.length / 64)) (h : 64 ≤ (msg.drop (64 * q.val)).length) :
    firstBlock (msg.drop (64 * q.val)) h = fullBlock msg q :=
  Vector.ext fun k _ => by simp [firstBlock, fullBlock]

theorem Driver.move_afterBlocks {q : Nat} (hq : q < msg.length / 64) :
    (afterBlocks msg hm q).move = afterBlocks msg hm (q + 1) := by
  have hlen : 64 ≤ (msg.drop (64 * q)).length := by rw [List.length_drop]; omega
  have htake := List.take_succ_eq_append_getElem (l := List.ofFn fun i => fullBlock msg i)
    (by rwa [List.length_ofFn] : q < _)
  rw [List.getElem_ofFn] at htake
  simp only [Driver.move, afterBlocks, dif_pos hlen, List.drop_drop, firstBlock_drop msg ⟨q, hq⟩ hlen, htake]
  rfl

theorem Driver.moves_start_of_le {q : Nat} (hq : q ≤ msg.length / 64) :
    (start msg hm).moves q = afterBlocks msg hm q := by
  induction q with
  | zero => rfl
  | succ q ih =>
    rw [Driver.moves_add, ih (by omega)]
    exact move_afterBlocks msg hm hq

/-- The two moves that follow the last full block: to the padding phase, and the padding itself. -/
theorem Driver.moves_two_afterBlocks : (afterBlocks msg hm (msg.length / 64)).moves 2 = finished msg hm := by
  have hlt : (tailOf msg).length < 64 := tailOf_length_lt msg
  have htake : (List.ofFn fun i => fullBlock msg i).take (msg.length / 64) = List.ofFn fun i => fullBlock msg i :=
    List.take_of_length_le (by rw [List.length_ofFn])
  have hpadding : (afterBlocks msg hm (msg.length / 64)).move =
      ⟨.padding, tailOf msg, byteCount msg hm, List.ofFn fun i => fullBlock msg i⟩ := by
    rw [afterBlocks, htake, Driver.move]
    exact dif_neg (Nat.not_le_of_lt hlt)
  rw [Driver.moves, hpadding]
  exact dif_pos hlt

theorem Driver.moves_start (k : Nat) : (start msg hm).moves (msg.length / 64 + 2 + k) = finished msg hm := by
  rw [Driver.moves_add, Driver.moves_add, moves_start_of_le msg hm (le_refl _), moves_two_afterBlocks,
    moves_of_done rfl]

end

/-- Settles O55: after that many moves the driver is `finished`. -/
theorem driverFeedsMessageBlocks : Obligations.DriverFeedsMessageBlocks :=
  fun msg hm k => by rw [Driver.moves_start]; exact ⟨rfl, rfl⟩

/-! The commands of a hash (R148). -/

theorem hashCommands_of_le {msg : List Byte} (hm : msg.length ≤ maxMessageBytes) :
    hashCommands msg =
      some (.init :: (messageBlocks msg hm).flatMap (fun b => blockCommands (packBlock b)) ++ rddigest) :=
  dif_pos hm

theorem messageDigest_of_le {msg : List Byte} (hm : msg.length ≤ maxMessageBytes) :
    messageDigest msg = some (compressBlocks initialState (messageBlocks msg hm)) :=
  dif_pos hm

theorem blockCommands_length (v : BlockWords) : (blockCommands v).length = 17 := by
  rw [blockCommands, List.length_append, ldblk_length]; rfl

theorem blockCommands_wellFormed (v : BlockWords) : ∀ i ∈ blockCommands v, i.wellFormed = true :=
  List.forall_mem_append.mpr ⟨fun i hi => (ldblk_singleStep v i hi).1, fun i hi => by rw [List.mem_singleton.mp hi]; rfl⟩

/-- Settles O56: one INIT, seventeen commands a block, five RDH; a longer message is refused by the definitions. -/
theorem hashCommandCount : Obligations.HashCommandCount := by
  refine fun msg => ⟨fun hm => ⟨_, hashCommands_of_le hm, ?_, ?_⟩, fun h => ?_⟩
  · simp only [List.length_append, List.length_cons, List.length_flatMap, blockCommands_length, rddigest_length,
      List.map_const', List.sum_replicate, messageBlocks_length, smul_eq_mul]
    omega
  · refine List.forall_mem_append.mpr ⟨List.forall_mem_cons.mpr ⟨rfl, fun i hi => ?_⟩,
      fun i hi => (rddigest_singleStep i hi).1⟩
    obtain ⟨b, -, hib⟩ := List.mem_flatMap.mp hi
    exact blockCommands_wellFormed _ i hib
  · exact ⟨dif_neg (by omega), dif_neg (by omega)⟩

/-! The commands of a hash on the port of an engine (R148, R149). -/

/-- INIT on the port of an idle engine: one step. -/
theorem step_of_presented_init {s : State} {rest : List Instr} (hb : s.busy = false)
    (hp : s.port = presentAll (.init :: rest)) :
    ∃ u, step s = .next u ∧ u.h = initialState ∧ u.hWritten = Vector.replicate 5 true ∧ u.busy = false
      ∧ u.port = presentAll rest :=
  ⟨_, (step_of_presented (i := .init) rfl hb hp).trans (exec_init _), rfl, rfl, hb, rfl⟩

/-- LDBLK on the port of an idle engine: 16 steps. -/
theorem runSteps_ldblk {s : State} {m : BlockWords} {rest : List Pins} (hb : s.busy = false)
    (hp : s.port = presentAll (ldblk m) ++ rest) :
    ∃ u, runSteps 16 s = .next u ∧ u.h = s.h ∧ u.m = m ∧ u.hWritten = s.hWritten ∧ u.mWritten = Vector.replicate 16 true
      ∧ u.busy = false ∧ u.port = rest := by
  have hrun := runSteps_presentAll (ldblk_singleStep m) hb hp
  rw [ldblk_length, execAll_ldblk] at hrun
  exact ⟨_, hrun, rfl, rfl, rfl, rfl, hb, rfl⟩

/-- A block's commands on the port of an idle engine with `H` written, and a command waiting behind them: 16 steps load the
block and 82 compress. -/
theorem runSteps_blockCommands {s : State} {m : BlockWords} {i : Instr} {rest : List Instr} (hb : s.busy = false)
    (hw : s.hWritten = Vector.replicate 5 true) (hp : s.port = presentAll (blockCommands m ++ i :: rest)) :
    ∃ u, runSteps 98 s = .next u ∧ u.h = compress s.h m ∧ u.hWritten = Vector.replicate 5 true ∧ u.busy = false
      ∧ u.port = presentAll (i :: rest) := by
  rw [blockCommands, List.append_assoc, presentAll_append] at hp
  obtain ⟨l, hload, hlh, hlm, hlhw, hlmw, hlb, hlp⟩ := runSteps_ldblk hb hp
  have hstart : step l = .next (State.startStep { l with port := presentAll (i :: rest) }) :=
    step_of_presented (i := .compress) rfl hlb hlp
  have hreset : State.NoResetFor { l with port := presentAll (i :: rest) } 81 :=
    State.noResetFor_of_cmdValid rfl rfl 81
  obtain ⟨u, hrun, huh, -, -, hub, huw, -, -, hup⟩ :=
    runSteps_startStep_compress hreset ((State.allWritten_iff _).mpr ⟨hlhw.trans hw, hlmw⟩)
  rw [State.heldFor_of_cmdValid rfl] at hup
  exact ⟨u, (runSteps_add hload).trans ((runSteps_succ_of_next hstart).trans hrun), by rw [huh, hlh, hlm],
    huw.trans (hlhw.trans hw), hub, hup⟩

theorem compressBlocks_cons (h : StateWords) (b : Block) (bs : List Block) :
    compressBlocks h (b :: bs) = compressBlocks (compress h (packBlock b)) bs := rfl

/-- The blocks of a list, one after the other, with a command waiting behind them. -/
theorem runSteps_blocks {bs : List Block} {s : State} {i : Instr} {rest : List Instr} (hb : s.busy = false)
    (hw : s.hWritten = Vector.replicate 5 true)
    (hp : s.port = presentAll (bs.flatMap (fun b => blockCommands (packBlock b)) ++ i :: rest)) :
    ∃ u, runSteps (98 * bs.length) s = .next u ∧ u.h = compressBlocks s.h bs ∧ u.busy = false
      ∧ u.port = presentAll (i :: rest) := by
  induction bs generalizing s with
  | nil => exact ⟨s, rfl, rfl, hb, hp⟩
  | cons b bs ih =>
    rw [List.flatMap_cons, List.append_assoc] at hp
    obtain ⟨c, cs, hnext⟩ : ∃ c cs, bs.flatMap (fun b => blockCommands (packBlock b)) ++ i :: rest = c :: cs :=
      List.exists_cons_of_ne_nil (by simp)
    rw [hnext] at hp
    obtain ⟨v, hblock, hvh, hvw, hvb, hvp⟩ := runSteps_blockCommands hb hw hp
    obtain ⟨u, hrun, huh, hub, hup⟩ := ih hvb hvw (hnext ▸ hvp)
    refine ⟨u, ?_, by rw [huh, hvh, compressBlocks_cons], hub, hup⟩
    rw [List.length_cons, Nat.mul_succ, Nat.add_comm, runSteps_add hblock, hrun]

/-- Settles O57: one step for INIT, 98 for each block while the next command waits, and `i + 1` read words 0 to `i`. -/
theorem hashCommandsReturnDigest : Obligations.HashCommandsReturnDigest := by
  intro s msg hm cs digest hb hcs hdigest hp i
  obtain rfl := Option.some.inj ((hashCommands_of_le hm).symm.trans hcs)
  obtain rfl := Option.some.inj ((messageDigest_of_le hm).symm.trans hdigest)
  obtain ⟨u, hinit, huh, huw, hub, hup⟩ := step_of_presented_init hb hp
  obtain ⟨v, hblocks, hvh, hvb, hvp⟩ := runSteps_blocks hub huw hup
  obtain ⟨w, hread, hwr⟩ := runSteps_rddigest hvb hvp i
  refine ⟨w, ?_, by rw [hwr, hvh, huh]⟩
  calc runSteps (2 + 98 * (messageBlocks msg hm).length + i.val) s
      = runSteps (98 * (messageBlocks msg hm).length + (i.val + 1) + 1) s := by congr 1; omega
    _ = runSteps (98 * (messageBlocks msg hm).length + (i.val + 1)) u := runSteps_succ_of_next hinit
    _ = runSteps (i.val + 1) v := runSteps_add hblocks
    _ = .next w := hread

end Sys2Proof.Machine
end
